-- ==== Sys2Proof/Word.lean ====
section
/-! DEFINITION. The word types of the RFS-416: the fixed-width quantities that its manual treats as bits. -/

namespace Sys2Proof

/-- One byte of memory, of a record, of an anchor line or of a management frame. -/
abbrev Byte := BitVec 8

/-- A 40-bit byte address (Conventions, "Addresses"). -/
abbrev Addr := BitVec 40

/-- A line number: bits 39 to 6 of a line's address (R69). A line address is kept by its line number, so that its low six
bits are zero by construction. -/
abbrev Line := BitVec 34

/-- A value of the 32-bit tick counter, or a deadline compared with it (R156, "Tick arithmetic"). -/
abbrev Ticks := BitVec 32

/-- A domain's 32-bit epoch (R24). -/
abbrev Epoch := BitVec 32

/-- A 32-bit statistics counter (R138). -/
abbrev Count := BitVec 32

/-- The 4-bit initiator ID of an access at the host-side port (section 1.1). -/
abbrev InitId := BitVec 4

/-- The 5-bit downstream ID of an access at the memory-side port (R5, R6). -/
abbrev DownId := BitVec 5

/-- The number of a journal domain, 0 to 3. -/
abbrev DomId := Fin 4

/-- The number of a capture slot, 0 to 7 (R43). -/
abbrev SlotId := Fin 8

end Sys2Proof
end

