-- ==== Sys2Proof/Config.lean ====
section
/-! DEFINITION. What the manual fixes for this part: sizes, limits, codes and reset settings. There is no free value here:
every choice the manual leaves open is an operand of the command that reports it (notes/assumptions/5.md). -/

namespace Sys2Proof.Config

/-- The hold queue has 32 places (R86). -/
def holdPlaces : Nat := 32
/-- The response lists hold at most 64 accepted requests together (R1, R19). -/
def maxUnanswered : Nat := 64
/-- A hold queue entry has room for 16 beats, and a longer request is refused (R3). -/
def maxBeats : Nat := 16
/-- The sixteen downstream IDs 16 to 31 of the part's own accesses, in each direction (R6). -/
def ownIds : Nat := 16
/-- The fault queue keeps eight records (R151). -/
def faultPlaces : Nat := 8
/-- The lost count stops at 255 (R151). -/
def maxLost : Nat := 255
/-- The line filter's sets (R69). -/
def filterSets : Nat := 512
/-- TICK_DIV after reset (R160). -/
def resetTickDiv : Nat := 100
/-- The part code that IDENT answers (R179). -/
def partCode : Nat := 0x5A16
/-- The revision that IDENT answers (R179). -/
def revision : Nat := 1
/-- The record marker (R175). -/
def recordMarker : Nat := 0x6A1752C3
/-- The anchor marker (R176). -/
def anchorMarker : Nat := 0x3C9E0A71
/-- The CRC-32 polynomial with its bit order reversed (R177). -/
def crc32Poly : BitVec 32 := 0x82F63B78#32
/-- The CRC-8 polynomial (R177). -/
def crc8Poly : BitVec 8 := 0x07#8
/-- Bytes in a page (Terms). -/
def pageBytes : Nat := 4096
/-- Bytes in a line (Terms). -/
def lineBytes : Nat := 64
/-- Bytes in a record (Terms). -/
def recordBytes : Nat := 128
/-- The size of the address space, 2^40. -/
def addressSpace : Nat := 1099511627776

end Sys2Proof.Config
end

