-- ==== Sys2Proof/Syntax.lean ====
section
/-! DEFINITION. The commands of the part, one constructor of `Instr` for each row of spec/opcode_table.json, with the
operands that come from outside: the fields of a bus request, the beats and codes of a memory response, the argument bytes
of a management frame, and the outcome of each choice the manual leaves open. -/

namespace Sys2Proof

/-- The direction of an access (section 1.1, "Kind"). -/
inductive Dir where
  | read
  | write
deriving DecidableEq, Repr

/-- The beat size of a request: 1, 2, 4 or 8 bytes (section 1.1). -/
inductive BeatSize where
  | one
  | two
  | four
  | eight
deriving DecidableEq, Repr

/-- How the address advances from beat to beat (section 1.1). -/
inductive Burst where
  | incr
  | wrap
  | fixed
deriving DecidableEq, Repr

/-- A bus response code. The manual writes OKAY and ERROR and allows "any other code memory gives"; the other two are
AXI4's (PRESUMED, notes/assumptions/8.md). -/
inductive Code where
  | okay
  | exokay
  | error
  | decerr
deriving DecidableEq, Repr

/-- One beat of a read response: its code and its eight bytes, byte lane `i` in bits `8 * i + 7` to `8 * i`. -/
structure Beat where
  code : Code
  data : BitVec 64
deriving DecidableEq, Repr

/-- One beat of write data with its eight byte strobes (R2). -/
structure WriteBeat where
  data    : BitVec 64
  strobes : BitVec 8
deriving DecidableEq, Repr

/-- The address phase of a request at the host-side port (section 1.1). -/
structure Header where
  id        : InitId
  addr      : Addr
  /-- the number of beats, 1 to 256 -/
  len       : Nat
  size      : BeatSize
  burst     : Burst
  exclusive : Bool
deriving DecidableEq, Repr

/-- A response that memory gives: the beats of a read, or the one code of a write. -/
inductive MemResp where
  | read (beats : List Beat)
  | write (code : Code)
deriving DecidableEq, Repr

/-- Names one pending access of the part's own, for MEM_TIMEOUT (R158). A walk can have a read, a handed-over replay write
and a buffered replay write pending together. -/
inductive OwnRef where
  | captureRead (k : SlotId)
  | recordWrite (k : SlotId)
  | anchorWrite (d : DomId)
  | walkRead
  | replayWrite
  | replayBuffer
deriving DecidableEq, Repr

/-- The commands: one constructor for each row of spec/opcode_table.json, in the table's order. -/
inductive Instr where
  /-- READ_REQUEST (R7): a read address is presented. -/
  | readRequest (h : Header)
  /-- WRITE_ADDRESS_TAKEN (R86): a write address is presented. -/
  | writeAddressTaken (h : Header)
  /-- WRITE_REQUEST (R7): the data beats of the oldest kept write address have arrived, the last of them now. -/
  | writeRequest (beats : List WriteBeat)
  /-- MSP_ISSUE (R5): the memory-side port issues in direction `dir`; `id` is the free ID an own access is given. -/
  | mspIssue (dir : Dir) (id : DownId)
  /-- FORWARDED_RESPONSE (R4): memory answers a forwarded access of initiator `id`; `busy` says that the upstream channel
  of the direction is carrying another response as it arrives (R19). -/
  | forwardedResponse (id : InitId) (resp : MemResp) (busy : Bool)
  /-- UPSTREAM_RESPONSE (R19): the head of the list of `id` and `dir` takes the free channel. -/
  | upstreamResponse (dir : Dir) (id : InitId)
  /-- ABSORBED_RESPONSE (R6): a response for a downstream ID that no access holds. -/
  | absorbedResponse (dir : Dir) (id : DownId)
  /-- LATE_RESPONSE (R159): a response for a timed-out own access, with the codes of its beats. -/
  | lateResponse (dir : Dir) (id : DownId) (codes : List Code)
  /-- CAPTURE_READ_ISSUE (R53). -/
  | captureReadIssue (k : SlotId)
  /-- OLD_LINE_READ_RESPONSE (R54): the eight beats of a slot's old-line read. -/
  | oldLineReadResponse (id : DownId) (beats : Vector Beat 8)
  /-- RECORD_WRITE_ISSUE (R57). -/
  | recordWriteIssue (k : SlotId)
  /-- RECORD_WRITE_RESPONSE (R57). -/
  | recordWriteResponse (id : DownId) (code : Code)
  /-- SWEEP_VISIT (R79). -/
  | sweepVisit
  /-- FORMAT (R29): DOMAIN_OP with operation code 1 and the given domain byte. -/
  | format (domain : Byte)
  /-- FORMAT_SLOT1_ISSUE (R29). -/
  | formatSlot1Issue (d : DomId)
  /-- FORMAT_SLOT1_RESPONSE (R30). -/
  | formatSlot1Response (id : DownId) (code : Code)
  /-- FORMAT_INVALIDATE_RESPONSE (R31). -/
  | formatInvalidateResponse (id : DownId) (code : Code)
  /-- RECOVER (R41): DOMAIN_OP with operation code 2. -/
  | recover (domain : Byte)
  /-- ANCHOR_READ_ISSUE (R131). -/
  | anchorReadIssue
  /-- ANCHOR_READ_RESPONSE (R132): the eight beats of an anchor read. -/
  | anchorReadResponse (id : DownId) (beats : Vector Beat 8)
  /-- COMMIT (R105): DOMAIN_OP with operation code 3. -/
  | commit (domain : Byte)
  /-- ROLLBACK (R126): DOMAIN_OP with operation code 4. -/
  | rollback (domain : Byte)
  /-- CLOSE (R32): DOMAIN_OP with operation code 5. -/
  | close (domain : Byte)
  /-- ANCHOR_WRITE_ISSUE (R110). -/
  | anchorWriteIssue (d : DomId)
  /-- COMMIT_ANCHOR_RESPONSE (R112). -/
  | commitAnchorResponse (id : DownId) (code : Code)
  /-- RECORD_READ_RESPONSE (R121): the sixteen beats of a walk's record read. -/
  | recordReadResponse (id : DownId) (beats : Vector Beat 16)
  /-- REPLAY_WRITE_ISSUE (R123). -/
  | replayWriteIssue
  /-- REPLAY_WRITE_RESPONSE (R123). -/
  | replayWriteResponse (id : DownId) (code : Code)
  /-- ROLLBACK_ANCHOR_RESPONSE (R128). -/
  | rollbackAnchorResponse (id : DownId) (code : Code)
  /-- RECOVER_ANCHOR_RESPONSE (R134). -/
  | recoverAnchorResponse (id : DownId) (code : Code)
  /-- TICK (R156). -/
  | tick
  /-- HOLD_TIMEOUT (R96): the oldest held entry that is due. -/
  | holdTimeout
  /-- MEM_TIMEOUT (R158): the named own access, if it is due. -/
  | memTimeout (ref : OwnRef)
  /-- FRAME_START (R161): CS_N falls. -/
  | frameStart
  /-- FRAME_END (R161): CS_N rises after a completed reply. -/
  | frameEnd
  /-- CRC_MISMATCH (R163): a request whose bytes, the CRC byte last, do not check. -/
  | crcMismatch (bytes : List Byte)
  /-- UNKNOWN_OPCODE (R163): a request of an opcode that is none of the twelve, with its correct CRC byte. -/
  | unknownOpcode (opcode : Byte)
  /-- IDENT (R168). -/
  | ident
  /-- GET_STATUS (R168). -/
  | getStatus
  /-- SET_MASK (R169): the 24-bit field. -/
  | setMask (bits : BitVec 24)
  /-- CLEAR_EVENTS (R155): the 24-bit field. -/
  | clearEvents (bits : BitVec 24)
  /-- SET_TIMING (R170). -/
  | setTiming (tickDiv holdTimeout memTimeout : BitVec 16)
  /-- SET_REGION (R10), with its fields as R178 lays them out. -/
  | setRegion (entry flags : Byte) (base : Addr) (pages : BitVec 32)
  /-- GET_REGION (R10). -/
  | getRegion (entry : Byte)
  /-- SET_DOMAIN (R23), with its fields as R178 lays them out. -/
  | setDomain (domain : Byte) (journalBase : Addr) (capacity : BitVec 32) (anchorBase : Addr) (flags : Byte) (highMark : BitVec 32)
  /-- GET_DOMAIN (R171). -/
  | getDomain (domain : Byte)
  /-- GET_COUNTER (R144): selector byte and subtract byte. -/
  | getCounter (selector subtract : Byte)
  /-- TAKE_FAULT (R152). -/
  | takeFault
  /-- REPLY_COMPLETE (R165). -/
  | replyComplete
  /-- CUT_REPLY (R165): CS_N rises during the reply. -/
  | cutReply
  /-- SHORT_FRAME (R166): CS_N rises before the request completes. -/
  | shortFrame
  /-- LONG_FRAME (R167): a bit is clocked in TRAIL. -/
  | longFrame
  /-- RST_N_ASSERT (R20). -/
  | rstNAssert
  /-- RST_N_RELEASE (R180). -/
  | rstNRelease
  /-- POWER_ON_RESET (R180): supply is applied and is not yet stable. -/
  | powerOnReset
  /-- SUPPLY_LOSS (R180). -/
  | supplyLoss
  /-- DOMAIN_OP (R25): a frame whose operation code is none of the five. -/
  | domainOp (domain operation : Byte)
  /-- SUPPLY_STABLE (R180). -/
  | supplyStable
deriving DecidableEq, Repr

end Sys2Proof
end

