-- ==== Sys2Proof/WellFormed.lean ====
section
/-! DEFINITION. Which commands are well formed: the operands are such as the bus, the memory controller and the wire can
present. Each check names the rule it comes from. -/

namespace Sys2Proof

/-- A header the bus can present: 1 to 256 beats (section 1.1), and a WRAP burst whose first address is a multiple of its
beat size (R2). -/
def Header.wellFormed (h : Header) : Bool :=
  decide (1 ≤ h.len) && decide (h.len ≤ 256) &&
    match h.burst, h.size with
    | .wrap, .two => decide (h.addr.toNat % 2 = 0)
    | .wrap, .four => decide (h.addr.toNat % 4 = 0)
    | .wrap, .eight => decide (h.addr.toNat % 8 = 0)
    | _, _ => true

/-- A downstream ID of the part's own accesses, 16 to 31 (R6). -/
def ownId (id : DownId) : Bool := decide (16 ≤ id.toNat)

/-- The operands of a command are such as its row admits. -/
def Instr.wellFormed : Instr → Bool
  | .readRequest h => h.wellFormed
  | .writeAddressTaken h => h.wellFormed
  | .writeRequest beats => decide (1 ≤ beats.length) && decide (beats.length ≤ 256)
  | .mspIssue _ id => ownId id
  | .forwardedResponse _ (.read beats) _ => decide (1 ≤ beats.length)
  | .forwardedResponse _ (.write _) _ => true
  | .lateResponse _ id codes => ownId id && decide (1 ≤ codes.length)
  | .oldLineReadResponse id _ => ownId id
  | .recordWriteResponse id _ => ownId id
  | .formatSlot1Response id _ => ownId id
  | .formatInvalidateResponse id _ => ownId id
  | .anchorReadResponse id _ => ownId id
  | .commitAnchorResponse id _ => ownId id
  | .recordReadResponse id _ => ownId id
  | .replayWriteResponse id _ => ownId id
  | .rollbackAnchorResponse id _ => ownId id
  | .recoverAnchorResponse id _ => ownId id
  | .crcMismatch bytes => decide (2 ≤ bytes.length)
  | .unknownOpcode opcode => decide (opcode = 0) || decide (12 < opcode.toNat)
  | .domainOp _ operation => decide (operation = 0) || decide (5 < operation.toNat)
  | .upstreamResponse _ _ | .absorbedResponse _ _ | .captureReadIssue _ | .recordWriteIssue _ | .sweepVisit
  | .format _ | .formatSlot1Issue _ | .recover _ | .anchorReadIssue | .commit _ | .rollback _ | .close _
  | .anchorWriteIssue _ | .replayWriteIssue | .tick | .holdTimeout | .memTimeout _ | .frameStart | .frameEnd
  | .ident | .getStatus | .setMask _ | .clearEvents _ | .setTiming _ _ _ | .setRegion _ _ _ _ | .getRegion _
  | .setDomain _ _ _ _ _ _ | .getDomain _ | .getCounter _ _ | .takeFault | .replyComplete | .cutReply | .shortFrame
  | .longFrame | .rstNAssert | .rstNRelease | .powerOnReset | .supplyLoss | .supplyStable => true

end Sys2Proof
end

