-- ==== Sys2Proof/Machine/State.lean ====
section
/-! DEFINITION. The state of the part as plain data: everything the manual gives it (INVENTORY.md, "State"), the queue of
waiting commands, the stop reasons, and the machine right after reset. -/

namespace Sys2Proof.Machine

/-- The reasons a step could stop with a fault. There is none: a fault of the RFS-416 is a record in its fault queue
(R149), which is a next state, so no command raises a machine fault. Safe. -/
inductive Fault where
deriving DecidableEq, Repr

/-- The reasons a command could be refused. -/
inductive Refusal where
  /-- Raised by an arm of `exec` for a command that has no meaning yet; no arm does (every row has its meaning). Safe. -/
  | notModelled (mnemonic : String)
deriving DecidableEq, Repr

/-! ### Pins and power -/

/-- The supply as R180 distinguishes it. -/
inductive Supply where
  | off
  /-- applied and not yet stable -/
  | rising
  | stable
deriving DecidableEq, Repr

/-- What is at the part's input pins: levels, `true` for high, and the bytes that the SPI host clocks. -/
structure Pins where
  supply   : Supply
  rstN     : Bool
  csN      : Bool
  /-- what SCK and MOSI bring on the idle steps to come, first in first out: for each, the byte that completes on it, or none.
  Like the commands that wait, these come from outside (the model's own field, notes/assumptions/15.md) -/
  clocking : List (Option Byte)
deriving DecidableEq, Repr

/-! ### Requests and the host-side port -/

/-- An accepted request as the host-side port keeps it (section 1.1, R85): its header, and the data beats of a write. -/
structure Request where
  header : Header
  kind   : Dir
  data   : List WriteBeat
deriving DecidableEq, Repr

/-- How a request in a response list is marked (R19). -/
inductive Mark where
  | held
  | forwarded
  | refused
deriving DecidableEq, Repr

/-- An accepted request that has not been answered upstream (R19). -/
structure Unanswered where
  arrival : Nat
  id      : InitId
  kind    : Dir
  len     : Nat
  mark    : Mark
deriving DecidableEq, Repr

/-- A response on its way upstream, with the initiator ID it answers. -/
structure UpResponse where
  id   : InitId
  resp : MemResp
deriving DecidableEq, Repr

/-- The upstream side of one direction (R19). -/
structure Upstream where
  /-- responses of memory held at the memory-side port until the channel is free, in the order they arrived -/
  waiting : List UpResponse
  /-- the response that the channel carried last -/
  channel : Option UpResponse
deriving DecidableEq, Repr

/-- The host-side port (sections 1.1 and 1.6). -/
structure HostPort where
  /-- the position that the next accepted request takes in the acceptance order (R1) -/
  nextArrival : Nat
  /-- writes whose address is taken and whose data are still arriving, oldest first; each keeps a place (R86) -/
  kept        : List Header
  /-- the accepted requests not yet answered, in acceptance order; the list of one ID and direction is its sublist (R19) -/
  unanswered  : List Unanswered
  readUp      : Upstream
  writeUp     : Upstream
deriving DecidableEq, Repr

/-! ### The memory-side port -/

/-- A forwarded access (R5): the request unchanged, with its acceptance position. -/
structure Forwarded where
  arrival : Nat
  req     : Request
deriving DecidableEq, Repr

/-- Which operation an anchor write, or FORMAT's invalidating write, belongs to (R26, R31). -/
inductive AnchorUse where
  | formatSlot1
  | formatInvalidate
  | commit
  | rollback
  | recover
deriving DecidableEq, Repr

/-- The owner of one of the part's own accesses (R5). -/
inductive Owner where
  | captureRead (k : SlotId)
  | recordWrite (k : SlotId)
  | anchorWrite (use : AnchorUse)
  | anchorRead (slot1 : Bool)
  | recordRead
  | replayWrite
deriving DecidableEq, Repr

/-- One of the part's own accesses (R5, R6): a burst of `beats` eight-byte INCR beats, every strobe set for a write. -/
structure OwnAccess where
  owner    : Owner
  domain   : DomId
  dir      : Dir
  addr     : Addr
  beats    : Nat
  data     : List Byte
  /-- the journal position, where the access has one -/
  position : Option Nat
  /-- the deadline of the memory-side timeout (R157) -/
  deadline : Option Ticks
deriving DecidableEq, Repr

/-- An issued own access that holds its downstream ID (R6). -/
structure IssuedOwn where
  id       : DownId
  access   : OwnAccess
  timedOut : Bool
deriving DecidableEq, Repr

/-- The list that a direction's turn names (R5). -/
inductive Turn where
  | forwarded
  | own
deriving DecidableEq, Repr

/-- One direction of the memory-side port (R5, R6). -/
structure MemSide where
  /-- the forwarded list -/
  forwarded : List Forwarded
  /-- the own list -/
  own       : List OwnAccess
  turn      : Turn
  /-- forwarded accesses issued and not answered, in issue order -/
  issued    : List Forwarded
  /-- own accesses that hold a downstream ID -/
  issuedOwn : List IssuedOwn
deriving DecidableEq, Repr

/-- The memory-side port: its read and its write direction. -/
structure MemPort where
  reads  : MemSide
  writes : MemSide
deriving DecidableEq, Repr

/-! ### The region table and the domain records -/

/-- The treatment of a region (R8). -/
inductive Mode where
  | pass
  | journal
  | guarded
deriving DecidableEq, Repr

/-- A region table entry (R8). -/
structure Region where
  valid  : Bool
  base   : Addr
  pages  : Nat
  mode   : Mode
  domain : DomId
deriving DecidableEq, Repr

/-- The journal-full policies (R22). -/
inductive Policy where
  | stall
  | refuse
  | breaks
deriving DecidableEq, Repr

/-- How a domain's counters behave at their limit (R22, R139). -/
inductive CounterMode where
  | wrap
  | saturate
deriving DecidableEq, Repr

/-- The configuration half of a domain record (R22). -/
structure DomainConfig where
  journalBase : Addr
  capacity    : Nat
  anchorBase  : Addr
  policy      : Policy
  highMark    : Nat
  counterMode : CounterMode
  halfEnable  : Bool
deriving DecidableEq, Repr

/-- The states of a domain (R24). -/
inductive DomState where
  | off
  | formatting
  | recovering
  | openState
  | draining
  | committing
  | rolling
  | broken
deriving DecidableEq, Repr

/-- The pending field of a domain record (R24). -/
inductive Pending where
  | none
  | commit
  | rollback
  | close
deriving DecidableEq, Repr

/-- The five domain operations (R25). -/
inductive DomOp where
  | format
  | recover
  | commit
  | rollback
  | close
deriving DecidableEq, Repr

/-- The last result of a domain record (R24). -/
inductive OpResult where
  | ok
  | partialResult
  | failed
  | noAnchor
deriving DecidableEq, Repr

/-- What the domain controller has in hand for a domain's anchor (R29, R31, R82, R110): nothing; an anchor write prepared
and held; the write handed over; or FORMAT's invalidating write handed over. The result is the one the operation ends with
when the write is answered OKAY (R128). -/
inductive AnchorJob where
  | idle
  | held (epoch : Epoch) (result : OpResult)
  | sent (epoch : Epoch) (result : OpResult)
  | invalidating
deriving DecidableEq, Repr

/-- A domain record (R22, R24), with its anchor job and its twelve statistics counters (R138). -/
structure Domain where
  config     : DomainConfig
  state      : DomState
  epoch      : Epoch
  occupancy  : Nat
  pending    : Pending
  lastOp     : Option DomOp
  lastResult : OpResult
  pressure   : Bool
  brokenMark : Bool
  slotsInUse : Nat
  anchor     : AnchorJob
  counters   : Vector Count 12
deriving DecidableEq, Repr

/-! ### The capture engine, the line filter and the hold queue -/

/-- The states of a capture slot (R44). -/
inductive SlotState where
  | free
  | readOld
  | writeRecord
deriving DecidableEq, Repr

/-- A capture slot (R43). -/
structure Slot where
  state       : SlotState
  domain      : DomId
  line        : Line
  region      : Fin 16
  position    : Nat
  epoch       : Epoch
  stamp       : Ticks
  /-- the old-line buffer, 64 bytes -/
  buffer      : List Byte
  readIssued  : Bool
  /-- whether the record write has been handed to the memory-side port (R57) -/
  writeHanded : Bool
  /-- the deadline of the access the slot is pending on (R157) -/
  deadline    : Option Ticks
deriving DecidableEq, Repr

/-- A line filter entry (R69). -/
structure FilterEntry where
  valid  : Bool
  domain : DomId
  line   : Line
  parity : Bool
deriving DecidableEq, Repr

/-- A set of the line filter: four ways and the round-robin pointer (R69). -/
structure FilterSet where
  ways    : Vector FilterEntry 4
  pointer : Fin 4
deriving DecidableEq, Repr

/-- A running sweep (R77). -/
structure RunningSweep where
  domain : DomId
  next   : Fin 512
  left   : Nat
deriving DecidableEq, Repr

/-- The sweep engine (R77). -/
structure Sweeper where
  queue   : List DomId
  running : Option RunningSweep
deriving DecidableEq, Repr

/-- The wait reasons (R87). -/
inductive Wait where
  | order
  | capture
  | line
  | slot
  | space
  | drain
  | roll
deriving DecidableEq, Repr

/-- A hold queue entry (R85). -/
structure Entry where
  req       : Request
  region    : Option (Fin 16)
  mode      : Mode
  domain    : Option DomId
  arrival   : Nat
  wait      : Wait
  uncovered : List Line
  own       : List Line
  carried   : Bool
  deadline  : Option Ticks
deriving DecidableEq, Repr

/-! ### The replay engine -/

/-- The kind of a walk (R119). -/
inductive WalkKind where
  | rollback
  | recover
deriving DecidableEq, Repr

/-- The progress of a walk's anchor reads (R131): not yet issued, slot 0 being read, or slot 1 being read with the outcome
of slot 0 (its 64 bytes, or none where the read failed). -/
inductive AnchorReads where
  | waiting
  | slot0
  | slot1 (first : Option (List Byte))
deriving DecidableEq, Repr

/-- The phase of a walk (R119). -/
inductive WalkPhase where
  | anchorRead (progress : AnchorReads)
  | walk
deriving DecidableEq, Repr

/-- A record in the record buffer, with its position and the deadline of its replay write (R119, R157). -/
structure Buffered where
  position : Nat
  record   : List Byte
  deadline : Option Ticks
deriving DecidableEq, Repr

/-- A walk of the replay engine (R119). The cursor is `none` for −1. -/
structure Walk where
  kind     : WalkKind
  domain   : DomId
  phase    : WalkPhase
  epoch    : Epoch
  cursor   : Option Nat
  buffer   : Option Buffered
  readOut  : Option Nat
  writeOut : Option Nat
  skips    : Nat
  failures : Nat
deriving DecidableEq, Repr

/-- The replay engine: its walk and its wait list (R119, R120). -/
structure Replay where
  walk    : Option Walk
  waiting : List DomId
deriving DecidableEq, Repr

/-! ### Faults, events, time and frames -/

/-- The kinds of fault record (R149). -/
inductive FaultKind where
  | captureFailed
  | recordFailed
  | anchorFailed
  | replayReadFailed
  | replayWriteFailed
  | replayBadRecord
  | holdTimeout
  | journalFull
  | guardWrite
  | badBurst
  | lateResponse
deriving DecidableEq, Repr

/-- A fault record (R149). -/
structure FaultRecord where
  kind      : FaultKind
  stamp     : Ticks
  domain    : Option DomId
  initiator : Option InitId
  address   : Option Addr
  position  : Option Nat
  code      : Option Code
deriving DecidableEq, Repr

/-- The fault and event block (R150 to R154). Flags and mask are indexed as R153 gives. -/
structure FaultBlock where
  queue : List FaultRecord
  lost  : Nat
  flags : BitVec 19
  mask  : BitVec 19
deriving DecidableEq, Repr

/-- The timebase and the two timeout settings (R95, R156, R157). -/
structure Timebase where
  tickDiv     : Nat
  divCount    : Nat
  tick        : Ticks
  holdTimeout : Nat
  memTimeout  : Nat
deriving DecidableEq, Repr

/-- The states of the frame engine (R161). -/
inductive FrameState where
  | idle
  | request
  | reply
  | trail
deriving DecidableEq, Repr

/-- A counter that GET_COUNTER selects (R143). -/
inductive CounterSel where
  | domain (d : DomId) (index : Fin 12)
  | global (index : Fin 4)
deriving DecidableEq, Repr

/-- What the management port latches for one frame (R144, R152, R161). -/
inductive Latch where
  | empty
  | counter (sel : CounterSel) (value : Count) (subtract : Bool)
  | fault (record : FaultRecord)
deriving DecidableEq, Repr

/-- The frame engine (R161). -/
structure FrameEngine where
  state    : FrameState
  request  : List Byte
  expected : Option Nat
  reply    : List Byte
  index    : Nat
  latch    : Latch
  /-- whether this frame has already been counted as running long (R167) -/
  ranLong  : Bool
deriving DecidableEq, Repr

/-! ### The state -/

/-- The state of the part, and the commands that wait. -/
structure State where
  pins    : Pins
  host    : HostPort
  mem     : MemPort
  regions : Vector Region 16
  domains : Vector Domain 4
  slots   : Vector Slot 8
  filter  : Vector FilterSet 512
  sweep   : Sweeper
  hold    : List Entry
  replay  : Replay
  globals : Vector Count 4
  faults  : FaultBlock
  time    : Timebase
  frame   : FrameEngine
  /-- the commands that wait, first in first out (the model's own field) -/
  pending : List Instr
deriving DecidableEq, Repr

/-- An upstream channel after reset (R20). -/
def Upstream.reset : Upstream := { waiting := [], channel := none }

/-- The host-side port after reset (R20). -/
def HostPort.reset : HostPort :=
  { nextArrival := 0, kept := [], unanswered := [], readUp := Upstream.reset, writeUp := Upstream.reset }

/-- A direction of the memory-side port after reset: the turn names the forwarded list (R20). -/
def MemSide.reset : MemSide := { forwarded := [], own := [], turn := .forwarded, issued := [], issuedOwn := [] }

/-- An invalid region table entry with every field zero (R8). -/
def Region.reset : Region := { valid := false, base := 0#40, pages := 0, mode := .pass, domain := 0 }

/-- A domain configuration after reset: every field zero (R22). -/
def DomainConfig.reset : DomainConfig :=
  { journalBase := 0#40, capacity := 0, anchorBase := 0#40, policy := .stall, highMark := 0, counterMode := .wrap,
    halfEnable := false }

/-- A domain record after reset (R22, R24, R42, R148). -/
def Domain.reset : Domain :=
  { config := DomainConfig.reset, state := .off, epoch := 0#32, occupancy := 0, pending := .none, lastOp := none,
    lastResult := .ok, pressure := false, brokenMark := false, slotsInUse := 0, anchor := .idle,
    counters := Vector.replicate 12 0#32 }

/-- A capture slot after reset: FREE, every other field zero (R43, R68). -/
def Slot.reset : Slot :=
  { state := .free, domain := 0, line := 0#34, region := 0, position := 0, epoch := 0#32, stamp := 0#32,
    buffer := List.replicate 64 0#8, readIssued := false, writeHanded := false, deadline := none }

/-- An invalid filter entry with every field zero (R84). -/
def FilterEntry.reset : FilterEntry := { valid := false, domain := 0, line := 0#34, parity := false }

/-- A filter set after reset (R84). -/
def FilterSet.reset : FilterSet := { ways := Vector.replicate 4 FilterEntry.reset, pointer := 0 }

/-- The fault and event block after reset (R160). -/
def FaultBlock.reset : FaultBlock := { queue := [], lost := 0, flags := 0#19, mask := 0#19 }

/-- The timebase after reset (R95, R157, R160). -/
def Timebase.reset : Timebase :=
  { tickDiv := Config.resetTickDiv, divCount := 0, tick := 0#32, holdTimeout := 0, memTimeout := 0 }

/-- The frame engine in IDLE with its buffers empty (R174). -/
def FrameEngine.reset : FrameEngine :=
  { state := .idle, request := [], expected := none, reply := [], index := 0, latch := .empty, ranLong := false }

/-- The machine right after reset: RST_N released with supply stable, CS_N high and nothing clocked (notes/assumptions/10.md
and 15.md). -/
def State.reset : State :=
  { pins := { supply := .stable, rstN := true, csN := true, clocking := [] }
    host := HostPort.reset
    mem := { reads := MemSide.reset, writes := MemSide.reset }
    regions := Vector.replicate 16 Region.reset
    domains := Vector.replicate 4 Domain.reset
    slots := Vector.replicate 8 Slot.reset
    filter := Vector.replicate 512 FilterSet.reset
    sweep := { queue := [], running := none }
    hold := []
    replay := { walk := none, waiting := [] }
    globals := Vector.replicate 4 0#32
    faults := FaultBlock.reset
    time := Timebase.reset
    frame := FrameEngine.reset
    pending := [] }

end Sys2Proof.Machine
end

