-- ==== Sys2Proof/Machine/Operands.lean ====
section
/-! DEFINITION. The arithmetic of a request (R2, R3): the bytes its beats address, its extent, the lines it touches; lines
and areas; and the bytes carried by beats. -/

namespace Sys2Proof.Machine

/-- The bytes of a beat. -/
def beatBytes : BeatSize → Nat
  | .one => 1
  | .two => 2
  | .four => 4
  | .eight => 8

/-- The byte address of a line: its low six bits are zero (Conventions, "Addresses"). -/
def lineAddr (l : Line) : Addr := l ++ 0#6

/-- The line that holds a byte. -/
def lineOfByte (b : Nat) : Line := BitVec.ofNat 34 (b / Config.lineBytes)

/-- The aligned address: the first address rounded down to a multiple of the beat size (R2). -/
def alignedAddr (h : Header) : Nat := h.addr.toNat - h.addr.toNat % beatBytes h.size

/-- The bytes that beat `k` addresses, from the first up to but not including the second number (R2). -/
def beatRange (h : Header) (k : Nat) : Nat × Nat :=
  let first := h.addr.toNat
  let size := beatBytes h.size
  match h.burst with
  | .incr =>
    if k = 0 then (first, alignedAddr h + size) else (alignedAddr h + k * size, alignedAddr h + k * size + size)
  | .fixed => (first, alignedAddr h + size)
  | .wrap =>
    let span := h.len * size
    let boundary := first - first % span
    let start := boundary + (first - boundary + k * size) % span
    (start, start + size)

/-- The byte ranges of all the beats: together the request's extent (R2). -/
def extent (h : Header) : List (Nat × Nat) := (List.range h.len).map (beatRange h)

/-- Whether two ranges of bytes, each given by its first byte and its end, overlap. -/
def rangesMeet (a b : Nat × Nat) : Bool := decide (a.1 < b.2) && decide (b.1 < a.2)

/-- Whether the extent includes a byte of the range. -/
def extentMeets (h : Header) (r : Nat × Nat) : Bool := (extent h).any (rangesMeet r)

/-- Whether the extent includes bytes on both sides of a 4 KiB page boundary (R3). -/
def crossesPage (h : Header) : Bool :=
  (extent h).any fun r =>
    decide (r.1 / Config.pageBytes ≠ h.addr.toNat / Config.pageBytes) ||
      decide ((r.2 - 1) / Config.pageBytes ≠ h.addr.toNat / Config.pageBytes)

/-- A line inserted into an ascending list without repeats. -/
def insertLine (x : Line) : List Line → List Line
  | [] => [x]
  | y :: ys => if x < y then x :: y :: ys else if x = y then y :: ys else y :: insertLine x ys

/-- The bytes of a range. -/
def bytesOf (r : Nat × Nat) : List Nat := (List.range (r.2 - r.1)).map (r.1 + ·)

/-- Strobe bit `i` of a beat belongs to the byte whose address has its low three bits equal to `i` (R2). -/
def strobed (w : WriteBeat) (b : Nat) : Bool := w.strobes.getLsbD (b % 8)

/-- The bytes that a write's beats address with their strobes set, or that a read's beats address (R2). -/
def touchedBytes (r : Request) : List Nat :=
  match r.kind with
  | .read => (extent r.header).flatMap bytesOf
  | .write => ((extent r.header).zip r.data).flatMap fun p => (bytesOf p.1).filter (strobed p.2)

/-- The lines a request touches, in ascending order (R2). -/
def touchedLines (r : Request) : List Line := (touchedBytes r).foldr (fun b ls => insertLine (lineOfByte b) ls) []

/-- Whether a write touches a line. -/
def touches (r : Request) (l : Line) : Bool := decide (l ∈ touchedLines r)

/-- A domain's journal area (R22). -/
def journalArea (c : DomainConfig) : Nat × Nat :=
  (c.journalBase.toNat, c.journalBase.toNat + c.capacity * Config.recordBytes)

/-- A domain's anchor span: its two anchor lines (R22). -/
def anchorSpan (c : DomainConfig) : Nat × Nat := (c.anchorBase.toNat, c.anchorBase.toNat + 2 * Config.lineBytes)

/-- Whether an extent includes a byte of the areas of a domain (R13). -/
def meetsAreas (h : Header) (c : DomainConfig) : Bool := extentMeets h (journalArea c) || extentMeets h (anchorSpan c)

/-- Whether either area of one domain overlaps either area of another (R23, R27). -/
def areasOverlap (a b : DomainConfig) : Bool :=
  rangesMeet (journalArea a) (journalArea b) || rangesMeet (journalArea a) (anchorSpan b) ||
    rangesMeet (anchorSpan a) (journalArea b) || rangesMeet (anchorSpan a) (anchorSpan b)

/-- The range of a region table entry (R9). -/
def regionRange (r : Region) : Nat × Nat := (r.base.toNat, r.base.toNat + r.pages * Config.pageBytes)

/-- Whether a region's full range overlaps either area of a domain (R27). -/
def regionMeetsAreas (r : Region) (c : DomainConfig) : Bool :=
  rangesMeet (regionRange r) (journalArea c) || rangesMeet (regionRange r) (anchorSpan c)

/-- The address of the record at a journal position: journal base + position × 128 (R57). -/
def recordAddr (c : DomainConfig) (position : Nat) : Addr :=
  BitVec.ofNat 40 (c.journalBase.toNat + position * Config.recordBytes)

/-- The anchor slot of an epoch: slot 1 for an odd epoch, slot 0 for an even one (R26). -/
def anchorSlotAddr (c : DomainConfig) (e : Epoch) : Addr :=
  BitVec.ofNat 40 (c.anchorBase.toNat + e.toNat % 2 * Config.lineBytes)

/-- The bytes of a word of `n` bytes, least significant first. -/
def leBytes (n v : Nat) : List Byte := (List.range n).map fun i => BitVec.ofNat 8 (v / 256 ^ i)

/-- The bytes of a word of `n` bytes, most significant first. -/
def beBytes (n v : Nat) : List Byte := (leBytes n v).reverse

/-- The number that bytes spell, least significant first. -/
def ofLeBytes (bs : List Byte) : Nat := bs.foldr (fun b n => b.toNat + 256 * n) 0

/-- The bytes of one beat in address order: lane `i` is bits `8 * i + 7` to `8 * i` (notes/assumptions/9.md). -/
def laneBytes (w : BitVec 64) : List Byte := leBytes 8 w.toNat

/-- The bytes of a read response in address order (R54). -/
def responseBytes (beats : List Beat) : List Byte := beats.flatMap fun b => laneBytes b.data

/-- Whether every beat carries OKAY (R54, R121, R132). -/
def allOkay (beats : List Beat) : Bool := beats.all fun b => decide (b.code = .okay)

/-- The one code that a late response reports: OKAY if every beat carries it, and else the first other code
(notes/assumptions/20.md). -/
def lateCode (codes : List Code) : Code := (codes.find? fun c => decide (c ≠ .okay)).getD .okay

/-- The four domain numbers in ascending order. -/
def allDoms : List DomId := [0, 1, 2, 3]

/-- The eight capture slots in ascending order. -/
def allSlots : List SlotId := [0, 1, 2, 3, 4, 5, 6, 7]

/-- The sixteen region indexes in ascending order. -/
def allRegions : List (Fin 16) := [0, 1, 2, 3, 4, 5, 6, 7, 8, 9, 10, 11, 12, 13, 14, 15]

/-- The four ways of a filter set in ascending order. -/
def allWays : List (Fin 4) := [0, 1, 2, 3]

/-- The part is in reset while the supply is not stable or RST_N is low (R180). -/
def State.inReset (s : State) : Bool := !(decide (s.pins.supply = .stable) && s.pins.rstN)

/-- A domain record. -/
def State.dom (s : State) (d : DomId) : Domain := s.domains[d]

/-- A domain record replaced. -/
def State.setDom (s : State) (d : DomId) (x : Domain) : State := { s with domains := s.domains.set d x }

/-- A domain record changed. -/
def State.updDom (s : State) (d : DomId) (f : Domain → Domain) : State := s.setDom d (f (s.dom d))

/-- A capture slot. -/
def State.slot (s : State) (k : SlotId) : Slot := s.slots[k]

/-- A capture slot replaced. -/
def State.setSlot (s : State) (k : SlotId) (x : Slot) : State := { s with slots := s.slots.set k x }

/-- A filter set. -/
def State.filterSet (s : State) (i : Fin 512) : FilterSet := s.filter[i]

/-- A filter set replaced. -/
def State.setFilterSet (s : State) (i : Fin 512) (x : FilterSet) : State := { s with filter := s.filter.set i x }

/-- One direction of the memory-side port. -/
def State.side (s : State) : Dir → MemSide
  | .read => s.mem.reads
  | .write => s.mem.writes

/-- One direction of the memory-side port replaced. -/
def State.setSide (s : State) (dir : Dir) (m : MemSide) : State :=
  match dir with
  | .read => { s with mem := { s.mem with reads := m } }
  | .write => { s with mem := { s.mem with writes := m } }

/-- The upstream side of one direction. -/
def State.up (s : State) : Dir → Upstream
  | .read => s.host.readUp
  | .write => s.host.writeUp

/-- The upstream side of one direction replaced. -/
def State.setUp (s : State) (dir : Dir) (u : Upstream) : State :=
  match dir with
  | .read => { s with host := { s.host with readUp := u } }
  | .write => { s with host := { s.host with writeUp := u } }

/-- The sweep pending field of a domain record: 1 while the domain is in the request queue or is the domain of the running
sweep (R77). -/
def State.sweepPending (s : State) (d : DomId) : Bool :=
  decide (d ∈ s.sweep.queue) || (match s.sweep.running with | some r => decide (r.domain = d) | none => false)

/-- A deadline `n` ticks from now, or none where the setting is 0 (R95, R157). -/
def State.deadlineIn (s : State) (n : Nat) : Option Ticks :=
  if n = 0 then none else some (s.time.tick + BitVec.ofNat 32 n)

/-- Whether a deadline equals the tick counter's value (R96, R158). -/
def State.due (s : State) (deadline : Option Ticks) : Bool := decide (deadline = some s.time.tick)

end Sys2Proof.Machine
end

