-- ==== Sys2Proof/Machine/Flags.lean ====
section
/-! DEFINITION. The statistics block and the fault and event block: counters and half-points (chapter 8), event flags, the
mask and the interrupt line, and the fault queue (chapter 9). -/

namespace Sys2Proof.Machine

/-- The event flags (R153). -/
inductive Event where
  | done (d : DomId)
  | pressure (d : DomId)
  | broken (d : DomId)
  | half (d : DomId)
  | fault
  | faultLost
  | mgmtErr
deriving DecidableEq, Repr

/-- The index of an event flag (R153). -/
def eventIndex : Event → Nat
  | .done d => d.val
  | .pressure d => 4 + d.val
  | .broken d => 8 + d.val
  | .half d => 12 + d.val
  | .fault => 16
  | .faultLost => 17
  | .mgmtErr => 18

/-- The set of flags that holds one event. -/
def eventBit (e : Event) : BitVec 19 := 1#19 <<< eventIndex e

/-- An event flag raised: a flag already set stays set (R153). -/
def State.raise (s : State) (e : Event) : State :=
  { s with faults := { s.faults with flags := s.faults.flags ||| eventBit e } }

/-- Whether an event flag is set. -/
def State.flag (s : State) (e : Event) : Bool := s.faults.flags.getLsbD (eventIndex e)

/-- Whether IRQ_N is driven low: at least one flag is set whose mask bit is 1 (R154). -/
def State.irqAsserted (s : State) : Bool := decide (s.faults.flags &&& s.faults.mask ≠ 0#19)

/-- The per-domain counters (R138). -/
inductive Counter where
  | writesSeen
  | captures
  | filterHits
  | evictions
  | held
  | holdTimeouts
  | refused
  | pressureEvents
  | commits
  | rollbacks
  | replayed
  | skipped
deriving DecidableEq, Repr

/-- The index of a per-domain counter (R138). -/
def counterIndex : Counter → Fin 12
  | .writesSeen => 0
  | .captures => 1
  | .filterHits => 2
  | .evictions => 3
  | .held => 4
  | .holdTimeouts => 5
  | .refused => 6
  | .pressureEvents => 7
  | .commits => 8
  | .rollbacks => 9
  | .replayed => 10
  | .skipped => 11

/-- The global counters (R138). -/
inductive GlobalCounter where
  | guardRefused
  | badBursts
  | lateResponses
  | mgmtErrors
deriving DecidableEq, Repr

/-- The index of a global counter (R138). -/
def globalIndex : GlobalCounter → Fin 4
  | .guardRefused => 0
  | .badBursts => 1
  | .lateResponses => 2
  | .mgmtErrors => 3

/-- A counter's value after an increment of `n` (R139). -/
def incremented (mode : CounterMode) (v : Count) (n : Nat) : Count :=
  match mode with
  | .wrap => v + BitVec.ofNat 32 n
  | .saturate => if v.toNat + n < 2 ^ 32 then v + BitVec.ofNat 32 n else BitVec.allOnes 32

/-- A counter's value after the subtraction of a latched value (R145). -/
def subtracted (mode : CounterMode) (v latched : Count) : Count :=
  match mode with
  | .wrap => v - latched
  | .saturate => BitVec.ofNat 32 (v.toNat - latched.toNat)

/-- A counter's half-point bit: bit 31 of its value (R142). -/
def halfPoint (v : Count) : Bool := v.getLsbD 31

/-- A per-domain counter. -/
def Domain.counter (x : Domain) (c : Counter) : Count := x.counters[counterIndex c]

/-- An increment of a per-domain counter by `n`, with HALF[d] at a rise of the half-point bit while the half-event enable
is 1 (R139, R142). -/
def State.count (s : State) (d : DomId) (c : Counter) (n : Nat) : State :=
  let x := s.dom d
  let before := x.counter c
  let after := incremented x.config.counterMode before n
  let counted := s.setDom d { x with counters := x.counters.set (counterIndex c) after }
  if x.config.halfEnable && decide (before.toNat < 2 ^ 31) && decide (2 ^ 31 ≤ after.toNat) then counted.raise (.half d)
  else counted

/-- An increment of a global counter by 1: these always wrap and raise no event (R141). -/
def State.countGlobal (s : State) (c : GlobalCounter) : State :=
  { s with globals := s.globals.set (globalIndex c) (incremented .wrap s.globals[globalIndex c] 1) }

/-- A record offered to the fault queue: it joins the tail, or replaces the tail of a full queue with the lost count raised
to at most 255 and FAULT_LOST raised; FAULT is raised in both cases (R150, R151). -/
def State.enqueueFault (s : State) (r : FaultRecord) : State :=
  if s.faults.queue.length < Config.faultPlaces then
    State.raise { s with faults := { s.faults with queue := s.faults.queue ++ [r] } } .fault
  else
    State.raise (State.raise { s with faults := { s.faults with
      queue := s.faults.queue.dropLast ++ [r]
      lost := if s.faults.lost < Config.maxLost then s.faults.lost + 1 else Config.maxLost } } .faultLost) .fault

/-- A fault record with the tick stamp of now (R149). -/
def State.fault (s : State) (kind : FaultKind) (domain : Option DomId := none) (initiator : Option InitId := none)
    (address : Option Addr := none) (position : Option Nat := none) (code : Option Code := none) : State :=
  s.enqueueFault
    { kind := kind, stamp := s.time.tick, domain := domain, initiator := initiator, address := address,
      position := position, code := code }

end Sys2Proof.Machine
end

