-- ==== Sys2Proof/Machine/Filter.lean ====
section
/-! DEFINITION. The line filter and its sweep engine (chapter 4). -/

namespace Sys2Proof.Machine

/-- The set index of a line: the exclusive OR of three 9-bit slices of its line number (R70). -/
def setIndex (l : Line) : Fin 512 := (l.extractLsb' 0 9 ^^^ l.extractLsb' 9 9 ^^^ l.extractLsb' 18 9).toFin

/-- The parity of an epoch. -/
def epochParity (e : Epoch) : Bool := e.getLsbD 0

/-- Whether a domain is in a state in which all its filter entries are stale: OFF, FORMATTING, RECOVERING or BROKEN, or
carrying the broken mark (R71). -/
def Domain.forgets (x : Domain) : Bool :=
  (match x.state with
    | .off | .formatting | .recovering | .broken => true
    | .openState | .draining | .committing | .rolling => false) || x.brokenMark

/-- Whether a filter entry is stale, judged on its domain's record now (R71). -/
def State.stale (s : State) (e : FilterEntry) : Bool :=
  (e.parity != epochParity (s.dom e.domain).epoch) || (s.dom e.domain).forgets

/-- Whether a filter entry is live: valid and not stale (R71). -/
def State.live (s : State) (e : FilterEntry) : Bool := e.valid && !s.stale e

/-- A lookup: whether a line hits for a domain. It changes nothing (R72). -/
def State.filterHit (s : State) (d : DomId) (l : Line) : Bool :=
  allWays.any fun w =>
    let e := (s.filterSet (setIndex l)).ways[w]
    s.live e && decide (e.domain = d) && decide (e.line = l)

/-- The way of a set that holds a valid entry of a domain and a line, whatever its parity (R73, cases 1 and 2). -/
def presentWay (f : FilterSet) (d : DomId) (l : Line) : Option (Fin 4) :=
  allWays.find? fun w => f.ways[w].valid && decide (f.ways[w].domain = d) && decide (f.ways[w].line = l)

/-- The lowest way of a set that is invalid or, failing that, the lowest that is stale (R74, steps 1 and 2). -/
def State.spareWay (s : State) (f : FilterSet) : Option (Fin 4) :=
  match allWays.find? fun w => !f.ways[w].valid with
  | some w => some w
  | none => allWays.find? fun w => s.stale f.ways[w]

/-- An insertion of a domain, a line and a parity: an entry of the pair takes the parity (and stays as it is if it has it
already); otherwise a spare way takes the entry; otherwise the way the pointer names does, the pointer advances, and one is
added to EVICTIONS of the domain whose live entry is lost (R73 to R75). -/
def State.filterInsert (s : State) (d : DomId) (l : Line) (parity : Bool) : State :=
  let i := setIndex l
  let f := s.filterSet i
  let e : FilterEntry := { valid := true, domain := d, line := l, parity := parity }
  match presentWay f d l with
  | some w => s.setFilterSet i { f with ways := f.ways.set w e }
  | none =>
    match s.spareWay f with
    | some w => s.setFilterSet i { f with ways := f.ways.set w e }
    | none =>
      let victim := f.ways[f.pointer]
      (s.setFilterSet i { ways := f.ways.set f.pointer e, pointer := f.pointer + 1 }).count victim.domain .evictions 1

/-- A sweep as it starts: next set 0 and 512 visits to make (R78). -/
def sweepFrom (d : DomId) : RunningSweep := { domain := d, next := 0, left := Config.filterSets }

/-- A request for a sweep of a domain: it starts at once on an idle engine, merges into the running sweep of the same domain
(512 visits more, position kept) or into its place in the queue, and otherwise joins the tail (R78). -/
def State.requestSweep (s : State) (d : DomId) : State :=
  match s.sweep.running with
  | none => { s with sweep := { s.sweep with running := some (sweepFrom d) } }
  | some r =>
    if r.domain = d then { s with sweep := { s.sweep with running := some { r with left := Config.filterSets } } }
    else if d ∈ s.sweep.queue then s
    else { s with sweep := { s.sweep with queue := s.sweep.queue ++ [d] } }

/-- A filter entry after a visit of a sweep of `d`: invalid if it is a valid stale entry of `d`, and as it was otherwise
(R79). -/
def State.sweptEntry (s : State) (d : DomId) (e : FilterEntry) : FilterEntry :=
  if e.valid && decide (e.domain = d) && s.stale e then { e with valid := false } else e

/-- A visit to a set by a sweep of `d`: the four ways are examined and the pointer does not move (R79). -/
def State.visitSet (s : State) (d : DomId) (i : Fin 512) : State :=
  let f := s.filterSet i
  s.setFilterSet i { f with ways := f.ways.map (s.sweptEntry d) }

/-- The sweep engine after the sweep that ran has completed: the domain at the head of the queue starts (R80). -/
def nextSweep (q : Sweeper) : Sweeper :=
  match q.queue with
  | [] => { queue := [], running := none }
  | d :: rest => { queue := rest, running := some (sweepFrom d) }

end Sys2Proof.Machine
end

