-- ==== Sys2Proof/Machine/Layout.lean ====
section
/-! DEFINITION. The layouts of chapter 11: check codes, journal records, anchor lines, and the codes of management frames. -/

namespace Sys2Proof.Machine

/-- One bit taken into the CRC-32 register (R177). -/
def crc32Bit (reg : BitVec 32) (bit : Bool) : BitVec 32 :=
  let shifted := reg >>> 1
  if bit != reg.getLsbD 0 then shifted ^^^ Config.crc32Poly else shifted

/-- One byte taken into the CRC-32 register, least significant bit first (R177). -/
def crc32Byte (reg : BitVec 32) (b : Byte) : BitVec 32 :=
  (List.range 8).foldl (fun r i => crc32Bit r (b.getLsbD i)) reg

/-- The CRC-32 of records and anchors (R177). -/
def crc32 (bs : List Byte) : BitVec 32 := ~~~(bs.foldl crc32Byte 0xFFFFFFFF#32)

/-- One bit taken into the CRC-8 register (R177). -/
def crc8Bit (reg : BitVec 8) (bit : Bool) : BitVec 8 :=
  let shifted := reg <<< 1
  if bit != reg.getLsbD 7 then shifted ^^^ Config.crc8Poly else shifted

/-- One byte taken into the CRC-8 register, most significant bit first (R177). -/
def crc8Byte (reg : BitVec 8) (b : Byte) : BitVec 8 :=
  (List.range 8).foldl (fun r i => crc8Bit r (b.getLsbD (7 - i))) reg

/-- The CRC-8 of management frames (R177). -/
def crc8 (bs : List Byte) : BitVec 8 := bs.foldl crc8Byte 0x00#8

/-- The `n` bytes at an offset of a record, line or frame. -/
def bytesAt (bs : List Byte) (offset n : Nat) : List Byte := (bs.drop offset).take n

/-- The little-endian field of `n` bytes at an offset. -/
def fieldAt (bs : List Byte) (offset n : Nat) : Nat := ofLeBytes (bytesAt bs offset n)

/-- Bytes with the check word at bytes 60 to 63 replaced by a given word. -/
def withCheckWord (bs : List Byte) (word : Nat) : List Byte := bs.take 60 ++ leBytes 4 word ++ bs.drop 64

/-- The check word of a record or an anchor line: the CRC-32 with bytes 60 to 63 taken as zero (R175, R176). -/
def checkWord (bs : List Byte) : BitVec 32 := crc32 (withCheckWord bs 0)

/-- Bytes with their check word in place. -/
def sealed (bs : List Byte) : List Byte := withCheckWord bs (checkWord bs).toNat

/-- Whether the check word of bytes read from memory is correct (R175, R176). -/
def checkWordCorrect (bs : List Byte) : Bool := decide (fieldAt bs 60 4 = (checkWord bs).toNat)

/-- The 128-byte record of a capture slot (R56, R175). -/
def recordOf (k : Slot) : List Byte :=
  sealed <|
    leBytes 4 Config.recordMarker ++ leBytes 1 k.domain.val ++ leBytes 1 k.region.val ++ leBytes 2 k.position ++
      leBytes 4 k.epoch.toNat ++ leBytes 4 k.stamp.toNat ++ leBytes 5 (lineAddr k.line).toNat ++ List.replicate 39 0#8 ++
      leBytes 4 0 ++ k.buffer

/-- The line that a record names: bytes 16 to 20 with bits 5 to 0 taken as zero (R175). -/
def recordLine (record : List Byte) : Line := BitVec.ofNat 34 (fieldAt record 16 5 / Config.lineBytes)

/-- The old contents that a record carries (R175). -/
def recordContents (record : List Byte) : List Byte := record.drop 64

/-- Whether a record is valid for a domain and an epoch: marker, check word, domain field and epoch field (R122, R175). -/
def recordValid (record : List Byte) (d : DomId) (e : Epoch) : Bool :=
  decide (fieldAt record 0 4 = Config.recordMarker) && checkWordCorrect record &&
    decide (fieldAt record 4 1 = d.val) && decide (fieldAt record 8 4 = e.toNat)

/-- The 64-byte anchor line of a domain, an epoch and a capacity (R176). -/
def anchorLine (d : DomId) (e : Epoch) (capacity : Nat) : List Byte :=
  sealed <|
    leBytes 4 Config.anchorMarker ++ leBytes 1 d.val ++ List.replicate 3 0#8 ++ leBytes 4 e.toNat ++ leBytes 4 capacity ++
      List.replicate 44 0#8 ++ leBytes 4 0

/-- The line of FORMAT's invalidating write: 64 bytes of zero (R176). -/
def invalidLine : List Byte := List.replicate 64 0#8

/-- Whether an anchor line read by RECOVER is valid (R176). -/
def anchorValid (line : List Byte) (d : DomId) : Bool :=
  decide (fieldAt line 0 4 = Config.anchorMarker) && decide (fieldAt line 4 1 = d.val) && checkWordCorrect line

/-- The epoch of an anchor line (R176). -/
def anchorEpoch (line : List Byte) : Epoch := BitVec.ofNat 32 (fieldAt line 8 4)

/-- The capacity of an anchor line (R176). -/
def anchorCapacity (line : List Byte) : Nat := fieldAt line 12 4

/-- The statuses of a reply (R164). -/
inductive Status where
  | ok
  | busy
  | state
  | arg
  | crc
  | opcode
deriving DecidableEq, Repr

/-- The status byte (section 11.4). -/
def statusByte : Status → Byte
  | .ok => 0x00#8
  | .busy => 0x01#8
  | .state => 0x02#8
  | .arg => 0x03#8
  | .crc => 0x04#8
  | .opcode => 0x05#8

/-- The argument bytes of an opcode, or none for an opcode that is none of the twelve (section 11.4). -/
def argumentCount (opcode : Byte) : Option Nat :=
  match opcode.toNat with
  | 1 => some 0
  | 2 => some 0
  | 3 => some 3
  | 4 => some 3
  | 5 => some 6
  | 6 => some 11
  | 7 => some 1
  | 8 => some 20
  | 9 => some 1
  | 10 => some 2
  | 11 => some 2
  | 12 => some 0
  | _ => none

/-- The reply-data bytes of an opcode: none for an unknown one (section 11.4, R164). -/
def replyCount (opcode : Byte) : Nat :=
  match opcode.toNat with
  | 1 => 3
  | 2 => 13
  | 7 => 10
  | 9 => 35
  | 11 => 4
  | 12 => 16
  | _ => 0

/-- The expected request length of an opcode: the opcode, its argument bytes and a CRC byte; two bytes for an unknown opcode
(R162). -/
def expectedLength (opcode : Byte) : Nat := (argumentCount opcode).getD 0 + 2

/-- The bytes of a request: opcode, arguments and their CRC-8 (section 11.4). -/
def requestBytes (opcode : Byte) (args : List Byte) : List Byte := (opcode :: args) ++ [crc8 (opcode :: args)]

/-- The bytes of a reply: status, data and their CRC-8; the data are zeros under any status but OK (R164). -/
def replyBytes (opcode : Byte) (status : Status) (data : List Byte) : List Byte :=
  let shown := if status = .ok then data else List.replicate (replyCount opcode) 0#8
  (statusByte status :: shown) ++ [crc8 (statusByte status :: shown)]

/-- The mode field of a region's flags byte (R178). -/
def modeCode : Mode → Nat
  | .pass => 0
  | .journal => 1
  | .guarded => 2

/-- The mode that a region's flags byte names; 3 is none (R178). -/
def modeOfCode : Nat → Option Mode
  | 0 => some .pass
  | 1 => some .journal
  | 2 => some .guarded
  | _ => none

/-- The policy field of a domain's flags byte (R178). -/
def policyCode : Policy → Nat
  | .stall => 0
  | .refuse => 1
  | .breaks => 2

/-- The policy that a domain's flags byte names; 3 is none (R178). -/
def policyOfCode : Nat → Option Policy
  | 0 => some .stall
  | 1 => some .refuse
  | 2 => some .breaks
  | _ => none

/-- The counter mode field of a domain's flags byte (R178). -/
def counterModeCode : CounterMode → Nat
  | .wrap => 0
  | .saturate => 1

/-- The state byte of GET_DOMAIN (R179). -/
def stateCode : DomState → Nat
  | .off => 0
  | .formatting => 1
  | .recovering => 2
  | .openState => 3
  | .draining => 4
  | .committing => 5
  | .rolling => 6
  | .broken => 7

/-- The pending byte of GET_DOMAIN (R179). -/
def pendingCode : Pending → Nat
  | .none => 0
  | .commit => 1
  | .rollback => 2
  | .close => 3

/-- The operation codes of DOMAIN_OP (R178). -/
def opCode : DomOp → Nat
  | .format => 1
  | .recover => 2
  | .commit => 3
  | .rollback => 4
  | .close => 5

/-- The last operation byte of GET_DOMAIN (R179). -/
def lastOpCode : Option DomOp → Nat
  | none => 0
  | some op => opCode op

/-- The last result byte of GET_DOMAIN (R179). -/
def resultCode : OpResult → Nat
  | .ok => 0
  | .partialResult => 1
  | .failed => 2
  | .noAnchor => 3

/-- The kind byte of TAKE_FAULT (R179). -/
def kindCode : FaultKind → Nat
  | .captureFailed => 1
  | .recordFailed => 2
  | .anchorFailed => 3
  | .replayReadFailed => 4
  | .replayWriteFailed => 5
  | .replayBadRecord => 6
  | .holdTimeout => 7
  | .journalFull => 8
  | .guardWrite => 9
  | .badBurst => 10
  | .lateResponse => 11

/-- The response code byte of TAKE_FAULT: 0 for OKAY, 1 for another code (R179). -/
def respCode (c : Code) : Nat := if c = .okay then 0 else 1

/-- A bit as a number. -/
def bitNat (b : Bool) : Nat := if b then 1 else 0

/-- The reply data of TAKE_FAULT for a record (R179). -/
def faultBytes (r : FaultRecord) : List Byte :=
  leBytes 1 (kindCode r.kind) ++
    leBytes 1 (bitNat r.domain.isSome + 2 * bitNat r.initiator.isSome + 4 * bitNat r.address.isSome +
      8 * bitNat r.position.isSome + 16 * bitNat r.code.isSome) ++
    beBytes 4 r.stamp.toNat ++ leBytes 1 ((r.domain.map Fin.val).getD 0) ++
    leBytes 1 ((r.initiator.map BitVec.toNat).getD 0) ++ beBytes 5 ((r.address.map BitVec.toNat).getD 0) ++
    beBytes 2 (r.position.getD 0) ++ leBytes 1 ((r.code.map respCode).getD 0)

/-- The reply data of TAKE_FAULT for an empty queue: kind NONE, every other field absent, a tick stamp of zero (R152). -/
def noFaultBytes : List Byte := List.replicate 16 0#8

/-- The flags byte of a region entry (R178, R179). -/
def regionFlags (r : Region) : Nat := bitNat r.valid + 2 * modeCode r.mode + 16 * r.domain.val

/-- The reply data of GET_REGION (R179). -/
def regionBytes (r : Region) : List Byte := leBytes 1 (regionFlags r) ++ beBytes 5 r.base.toNat ++ beBytes 4 r.pages

/-- The flags byte of a domain configuration (R178). -/
def configFlags (c : DomainConfig) : Nat :=
  policyCode c.policy + 4 * counterModeCode c.counterMode + 8 * bitNat c.halfEnable

/-- The configuration as GET_DOMAIN lays it out (R179). -/
def configBytes (c : DomainConfig) : List Byte :=
  beBytes 5 c.journalBase.toNat ++ beBytes 4 c.capacity ++ beBytes 5 c.anchorBase.toNat ++ leBytes 1 (configFlags c) ++
    beBytes 4 c.highMark

end Sys2Proof.Machine
end

