-- ==== Sys2Proof/Machine/Ops.lean ====
section
/-! DEFINITION. Shared operations of the access path: response lists, the lists of the memory-side port, the part's own
accesses and the conditions under which they are handed over (R5, R6, R19, R53, R57, R110, R123, R131). -/

namespace Sys2Proof.Machine

/-! ### The response lists (R19) -/

/-- The response list of an initiator ID and a direction, oldest first (R19). -/
def State.responseList (s : State) (id : InitId) (dir : Dir) : List Unanswered :=
  s.host.unanswered.filter fun u => decide (u.id = id) && decide (u.kind = dir)

/-- A request's mark changed in its response list. -/
def State.setMark (s : State) (arrival : Nat) (m : Mark) : State :=
  { s with host := { s.host with
    unanswered := s.host.unanswered.map fun u => if u.arrival = arrival then { u with mark := m } else u } }

/-- A request answered: it leaves its list (R19). -/
def State.dropUnanswered (s : State) (arrival : Nat) : State :=
  { s with host := { s.host with unanswered := s.host.unanswered.filter fun u => decide (u.arrival ≠ arrival) } }

/-- The answer to a refused request: for a write one ERROR response, for a read as many zero beats of ERROR as its length
(R4). -/
def refusalResponse (u : Unanswered) : MemResp :=
  match u.kind with
  | .write => .write .error
  | .read => .read (List.replicate u.len { code := .error, data := 0#64 })

/-- A response given upstream whole: the channel of its direction carries it and its request leaves its list (R19). -/
def State.giveUpstream (s : State) (u : Unanswered) (resp : MemResp) : State :=
  let t := s.dropUnanswered u.arrival
  t.setUp u.kind { t.up u.kind with channel := some { id := u.id, resp := resp } }

/-! ### Forwarding, refusing and holding (R88, R93, R94) -/

/-- A request as an access of the forwarded list (R5). -/
def Entry.forwarded (e : Entry) : Forwarded := { arrival := e.arrival, req := e.req }

/-- An entry taken out of the hold queue. -/
def State.dropEntry (s : State) (arrival : Nat) : State :=
  { s with hold := s.hold.filter fun x => decide (x.arrival ≠ arrival) }

/-- A request forwarded: it enters the forwarded list of its direction behind any access already there, leaves the hold
queue if it was there, and is marked forwarded (R93). -/
def State.forwardEntry (s : State) (e : Entry) : State :=
  let t := (s.dropEntry e.arrival).setMark e.arrival .forwarded
  let m := t.side e.req.kind
  t.setSide e.req.kind { m with forwarded := m.forwarded ++ [e.forwarded] }

/-- A request refused: it leaves the hold queue if it was there and is marked refused (R94). -/
def State.refuseEntry (s : State) (e : Entry) : State := (s.dropEntry e.arrival).setMark e.arrival .refused

/-- A request enqueued: it takes its place at the tail of the hold queue with the deadline of R95, and HELD of its domain is
counted once (R88). -/
def State.enqueueEntry (s : State) (e : Entry) : State :=
  let t := { s with hold := s.hold ++ [{ e with deadline := s.deadlineIn s.time.holdTimeout }] }
  match e.domain with
  | some d => t.count d .held 1
  | none => t

/-- A held entry replaced, in its place (R90). -/
def State.replaceEntry (s : State) (e : Entry) : State :=
  { s with hold := s.hold.map fun x => if x.arrival = e.arrival then e else x }

/-- The arrival sequences of the held entries that satisfy a test, in arrival order. -/
def State.arrivals (s : State) (p : Entry → Bool) : List Nat := (s.hold.filter p).map (·.arrival)

/-! ### Outstanding accesses -/

/-- The forwarded writes outstanding at the memory-side port: waiting in the forwarded list, or issued and not answered
(R53). -/
def State.outstandingWrites (s : State) : List Forwarded := s.mem.writes.forwarded ++ s.mem.writes.issued

/-- Whether a forwarded write that touches a line is outstanding (R53). -/
def State.lineWriteOut (s : State) (l : Line) : Bool := s.outstandingWrites.any fun f => touches f.req l

/-- Whether a forwarded write whose extent includes a byte of the domain's areas is outstanding (R29, R131). -/
def State.areaWriteOut (s : State) (d : DomId) : Bool :=
  s.outstandingWrites.any fun f => meetsAreas f.req.header (s.dom d).config

/-- Whether an own access is an anchor write or an invalidating write of a domain (R110, R131). -/
def isAnchorWriteOf (d : DomId) (a : OwnAccess) : Bool :=
  decide (a.domain = d) && match a.owner with | .anchorWrite _ => true | _ => false

/-- Whether an anchor write of the domain, or FORMAT's invalidating write of it, holds a downstream ID (R110, R131). -/
def State.anchorIdHeld (s : State) (d : DomId) : Bool := s.mem.writes.issuedOwn.any fun i => isAnchorWriteOf d i.access

/-- Whether a replay write, pending or timed out, holds a downstream ID (R123). -/
def State.replayIdHeld (s : State) : Bool := s.mem.writes.issuedOwn.any fun i => decide (i.access.owner = .replayWrite)

/-- Whether a timed-out replay write to a line still holds a downstream ID (R53). -/
def State.lateReplayTo (s : State) (l : Line) : Bool :=
  s.mem.writes.issuedOwn.any fun i =>
    i.timedOut && decide (i.access.owner = .replayWrite) && decide (i.access.addr = lineAddr l)

/-- Whether an own access is a record write. -/
def isRecordWrite (a : OwnAccess) : Bool := match a.owner with | .recordWrite _ => true | _ => false

/-- Whether a timed-out record write to a journal address still holds a downstream ID (R57). -/
def State.lateRecordTo (s : State) (a : Addr) : Bool :=
  s.mem.writes.issuedOwn.any fun i => i.timedOut && isRecordWrite i.access && decide (i.access.addr = a)

/-! ### Handing over own accesses -/

/-- An own access handed to the memory-side port: it joins the tail of the own list of its direction (R5). -/
def State.handOver (s : State) (a : OwnAccess) : State :=
  let m := s.side a.dir
  s.setSide a.dir { m with own := m.own ++ [a] }

/-- The old-line read of a slot (R54). -/
def captureRead (k : SlotId) (x : Slot) : OwnAccess :=
  { owner := .captureRead k, domain := x.domain, dir := .read, addr := lineAddr x.line, beats := 8, data := [],
    position := some x.position, deadline := x.deadline }

/-- Whether a slot's old-line read waits and both conditions of R53 hold. -/
def State.captureReadReady (s : State) (k : SlotId) : Bool :=
  let x := s.slot k
  decide (x.state = .readOld) && !x.readIssued && !s.lineWriteOut x.line && !s.lateReplayTo x.line

/-- The hand-over of a slot's old-line read, if it waits and may go (R53). -/
def State.handCaptureRead (s : State) (k : SlotId) : State :=
  if s.captureReadReady k then
    (s.setSlot k { s.slot k with readIssued := true }).handOver (captureRead k (s.slot k))
  else s

/-- The record write of a slot (R56, R57). -/
def recordWrite (k : SlotId) (x : Slot) (c : DomainConfig) : OwnAccess :=
  { owner := .recordWrite k, domain := x.domain, dir := .write, addr := recordAddr c x.position, beats := 16,
    data := recordOf x, position := some x.position, deadline := x.deadline }

/-- Whether a slot's record write waits and no timed-out record write to its address holds an ID (R57). -/
def State.recordWriteReady (s : State) (k : SlotId) : Bool :=
  let x := s.slot k
  decide (x.state = .writeRecord) && !x.writeHanded && !s.lateRecordTo (recordAddr (s.dom x.domain).config x.position)

/-- The hand-over of a slot's record write, if it waits and may go (R57). -/
def State.handRecordWrite (s : State) (k : SlotId) : State :=
  if s.recordWriteReady k then
    (s.setSlot k { s.slot k with writeHanded := true }).handOver
      (recordWrite k (s.slot k) (s.dom (s.slot k).domain).config)
  else s

/-- The operation that a domain's anchor write belongs to, by the domain's state (R26). -/
def anchorUse : DomState → AnchorUse
  | .formatting => .formatSlot1
  | .rolling => .rollback
  | .recovering => .recover
  | .off | .openState | .draining | .committing | .broken => .commit

/-- An anchor write of a domain (R111, R176): the anchor of an epoch, to the epoch's slot. -/
def anchorWrite (d : DomId) (x : Domain) (e : Epoch) (deadline : Option Ticks) : OwnAccess :=
  { owner := .anchorWrite (anchorUse x.state), domain := d, dir := .write, addr := anchorSlotAddr x.config e, beats := 8,
    data := anchorLine d e x.config.capacity, position := none, deadline := deadline }

/-- The conditions of a held anchor write: no sweep of the domain pending (R82), and, for FORMAT, no forwarded write to the
domain's areas outstanding (R29), for the others no earlier anchor write of the domain holding an ID (R110). A forwarded write
of the domain that has not been issued is no condition of COMMIT's anchor: R107's sentence is read as a consequence
(notes/assumptions/31.md). -/
def State.anchorClear (s : State) (d : DomId) : Bool :=
  !s.sweepPending d &&
    (if (s.dom d).state = .formatting then !s.areaWriteOut d else !s.anchorIdHeld d)

/-- The hand-over of a domain's held anchor write, if it may go; its deadline starts here (R157). -/
def State.handAnchorWrite (s : State) (d : DomId) : State :=
  match (s.dom d).anchor with
  | .held e r =>
    if s.anchorClear d then
      (s.updDom d fun x => { x with anchor := .sent e r }).handOver
        (anchorWrite d (s.dom d) e (s.deadlineIn s.time.memTimeout))
    else s
  | _ => s

/-- FORMAT's invalidating write to anchor slot 0 (R31). -/
def invalidatingWrite (d : DomId) (x : Domain) (deadline : Option Ticks) : OwnAccess :=
  { owner := .anchorWrite .formatInvalidate, domain := d, dir := .write, addr := x.config.anchorBase, beats := 8,
    data := invalidLine, position := none, deadline := deadline }

/-- The walk replaced. -/
def State.setWalk (s : State) (w : Option Walk) : State := { s with replay := { s.replay with walk := w } }

/-- An anchor read of RECOVER: slot 0 at the anchor base or slot 1 at anchor base + 64 (R131). -/
def anchorRead (d : DomId) (c : DomainConfig) (slot1 : Bool) (deadline : Option Ticks) : OwnAccess :=
  { owner := .anchorRead slot1, domain := d, dir := .read,
    addr := BitVec.ofNat 40 (c.anchorBase.toNat + if slot1 then Config.lineBytes else 0), beats := 8, data := [],
    position := none, deadline := deadline }

/-- The hand-over of RECOVER's first anchor read, if it waits, no anchor or invalidating write of the domain holds an ID,
and no forwarded write to the domain's areas is outstanding (R131). -/
def State.handAnchorRead (s : State) : State :=
  match s.replay.walk with
  | some w =>
    if decide (w.phase = .anchorRead .waiting) && !s.anchorIdHeld w.domain && !s.areaWriteOut w.domain then
      (s.setWalk (some { w with phase := .anchorRead .slot0 })).handOver
        (anchorRead w.domain (s.dom w.domain).config false (s.deadlineIn s.time.memTimeout))
    else s
  | none => s

/-- The replay write of a buffered record (R123). -/
def replayWrite (d : DomId) (b : Buffered) : OwnAccess :=
  { owner := .replayWrite, domain := d, dir := .write, addr := lineAddr (recordLine b.record), beats := 8,
    data := recordContents b.record, position := some b.position, deadline := b.deadline }

/-- The hand-over of the buffered replay write, if no forwarded write to its line is outstanding and no earlier replay write
is handed over and unanswered or holds an ID (R119, R123; notes/assumptions/12.md). -/
def State.handReplayWrite (s : State) : State :=
  match s.replay.walk with
  | some w =>
    match w.buffer with
    | some b =>
      if !s.lineWriteOut (recordLine b.record) && decide (w.writeOut = none) && !s.replayIdHeld then
        (s.setWalk (some { w with buffer := none, writeOut := some b.position })).handOver (replayWrite w.domain b)
      else s
    | none => s
  | none => s

/-- The record read of a position (R121). -/
def recordRead (d : DomId) (c : DomainConfig) (position : Nat) (deadline : Option Ticks) : OwnAccess :=
  { owner := .recordRead, domain := d, dir := .read, addr := recordAddr c position, beats := 16, data := [],
    position := some position, deadline := deadline }

/-- The cursor one position lower; `none` is −1 (R119). -/
def lowerCursor (k : Nat) : Option Nat := if k = 0 then none else some (k - 1)

/-- The issue of a walk's next record read, when the read before it has ended and the record buffer is empty (R121). -/
def State.issueRecordRead (s : State) : State :=
  match s.replay.walk with
  | some w =>
    if decide (w.phase = .walk) && decide (w.readOut = none) && decide (w.buffer = none) then
      match w.cursor with
      | some k =>
        (s.setWalk (some { w with readOut := some k, cursor := lowerCursor k })).handOver
          (recordRead w.domain (s.dom w.domain).config k (s.deadlineIn s.time.memTimeout))
      | none => s
    else s
  | none => s

/-- Every hand-over that waits and may go, in the order of R5: the capture slots in ascending slot number, the domain
controller's anchor writes in ascending domain number, and the replay engine's accesses. Made at the end of each happening
that can clear a condition (notes/assumptions/4.md). -/
def State.releaseHeld (s : State) : State :=
  let slots := allSlots.foldl (fun t k => (t.handCaptureRead k).handRecordWrite k) s
  let domains := allDoms.foldl (fun t d => t.handAnchorWrite d) slots
  domains.handAnchorRead.handReplayWrite.issueRecordRead

/-! ### Answers to own accesses -/

/-- The pending own access that holds a downstream ID of a direction (R6). -/
def State.pendingOwn (s : State) (dir : Dir) (id : DownId) : Option OwnAccess :=
  ((s.side dir).issuedOwn.find? fun i => decide (i.id = id) && !i.timedOut).map (·.access)

/-- The timed-out own access that holds a downstream ID of a direction (R6). -/
def State.timedOutOwn (s : State) (dir : Dir) (id : DownId) : Option OwnAccess :=
  ((s.side dir).issuedOwn.find? fun i => decide (i.id = id) && i.timedOut).map (·.access)

/-- A downstream ID freed (R6). -/
def State.freeId (s : State) (dir : Dir) (id : DownId) : State :=
  let m := s.side dir
  s.setSide dir { m with issuedOwn := m.issuedOwn.filter fun i => decide (i.id ≠ id) }

/-- The pending own access of a direction that satisfies a test, issued or still in the own list (R157). -/
def State.findOwn (s : State) (dir : Dir) (p : OwnAccess → Bool) : Option OwnAccess :=
  match (s.side dir).own.find? p with
  | some a => some a
  | none => ((s.side dir).issuedOwn.find? fun i => !i.timedOut && p i.access).map (·.access)

/-- A pending own access timed out: withdrawn if it was still in the own list, and otherwise marked timed out, keeping its
downstream ID (R158). -/
def State.timeOutOwn (s : State) (dir : Dir) (p : OwnAccess → Bool) : State :=
  let m := s.side dir
  s.setSide dir { m with
    own := m.own.filter fun a => !p a
    issuedOwn := m.issuedOwn.map fun i => if !i.timedOut && p i.access then { i with timedOut := true } else i }

end Sys2Proof.Machine
end

