-- ==== Sys2Proof/Machine/Evaluate.lean ====
section
/-! DEFINITION. The evaluation of an accepted request and the re-evaluation of a held entry (R7, R15, R16, R18, R45 to R52,
R90), and the work list of a happening (R91). -/

namespace Sys2Proof.Machine

/-- What an evaluation decides (R15, R16, R45 to R52, R90). -/
inductive Decision where
  /-- forwarded, with this number of filter hits to count (R16) -/
  | forward (hits : Nat)
  /-- a write of an OFF domain refused (R15) -/
  | refuseOff
  /-- a write refused because the journal is full under REFUSE (R51) -/
  | refuseFull
  /-- the journal is full under BREAK: the domain breaks and the write is forwarded unjournaled (R52) -/
  | breakForward
  /-- held with a wait, the uncovered lines found, and the carried mark it keeps -/
  | hold (wait : Wait) (uncovered : List Line) (carried : Bool)
  /-- slots and positions are allocated for these lines, and the entry waits CAPTURE (R48) -/
  | allocate (lines : List Line)
deriving DecidableEq, Repr

/-- The ORDER check fails: the hold queue holds an earlier entry of the same initiator ID and direction (R18). -/
def State.orderBlocked (s : State) (e : Entry) : Bool :=
  s.hold.any fun x =>
    decide (x.req.header.id = e.req.header.id) && decide (x.req.kind = e.req.kind) && decide (x.arrival < e.arrival)

/-- The capture slots that are FREE, in ascending slot number (R48). -/
def State.freeSlots (s : State) : List SlotId := allSlots.filter fun k => decide ((s.slot k).state = .free)

/-- Whether a line is the line address of a slot that is not FREE (R45). -/
def State.underCapture (s : State) (l : Line) : Bool :=
  allSlots.any fun k => decide ((s.slot k).state ≠ .free) && decide ((s.slot k).line = l)

/-- The uncovered lines of a write: its touched lines that miss in the line filter (R45). -/
def State.uncoveredLines (s : State) (d : DomId) (r : Request) : List Line :=
  (touchedLines r).filter fun l => !s.filterHit d l

/-- The touched lines that count in FILTER_HITS when a write is forwarded on its hits: all but the lines captured for this
write's own entry (R16). -/
def hitCount (e : Entry) : Nat := ((touchedLines e.req).filter fun l => decide (l ∉ e.own)).length

/-- The capture path for uncovered lines of which none is under capture: the space check, then the slot check (R46, R50 to
R52). -/
def State.allocationDecision (s : State) (d : DomId) (lines : List Line) : Decision :=
  let x := s.dom d
  if x.config.capacity < x.occupancy + lines.length then
    match x.config.policy with
    | .stall => .hold .space lines false
    | .refuse => .refuseFull
    | .breaks => .breakForward
  else if s.freeSlots.length < lines.length then .hold .slot lines false
  else .allocate lines

/-- A write of an OPEN domain, or a carried entry: forwarded if every touched line hits; waiting LINE if an uncovered line
is under capture; a carried entry that would need slots takes wait DRAIN and stops being carried; and otherwise the capture
path decides (R16, R32, R45). -/
def State.writePath (s : State) (d : DomId) (e : Entry) (carried : Bool) : Decision :=
  let lines := s.uncoveredLines d e.req
  if lines = [] then .forward (hitCount e)
  else if lines.any s.underCapture then .hold .line lines carried
  else if carried then .hold .drain lines false
  else s.allocationDecision d lines

/-- The treatment of a read by its domain's state (R15). -/
def readTreatment (x : Domain) : Decision :=
  match x.state with
  | .off | .openState | .committing | .broken => .forward 0
  | .formatting | .recovering | .rolling => .hold .roll [] false
  | .draining => if x.pending = .rollback then .hold .roll [] false else .forward 0

/-- The treatment of a write by its domain's state (R15), carried entries of a drain included (R32, R61). -/
def State.writeTreatment (s : State) (d : DomId) (e : Entry) : Decision :=
  let x := s.dom d
  match x.state with
  | .off => .refuseOff
  | .formatting | .recovering | .rolling => .hold .roll [] false
  | .committing => .hold .drain [] false
  | .broken => .forward 0
  | .openState => s.writePath d e false
  | .draining =>
    if e.carried then
      if x.brokenMark then .forward 0 else s.writePath d e true
    else if x.pending = .rollback then .hold .roll [] false
    else .hold .drain [] false

/-- An evaluation: the ORDER check first, then the treatment by the domain's state, PASS treatment for a request without a
domain (R7 step 6, R11, R15, R18, R90). -/
def State.decision (s : State) (e : Entry) : Decision :=
  if s.orderBlocked e then .hold .order [] e.carried
  else
    match e.domain with
    | none => .forward 0
    | some d =>
      match e.req.kind with
      | .read => readTreatment (s.dom d)
      | .write => s.writeTreatment d e

/-- Whether a decision takes the request out of the hold queue, or keeps it out (R90). -/
def Decision.leaves : Decision → Bool
  | .forward _ | .refuseOff | .refuseFull | .breakForward => true
  | .hold _ _ _ | .allocate _ => false

/-- A slot as an allocation sets it (R48), with the deadline of its old-line read (R157). -/
def State.allocatedSlot (s : State) (d : DomId) (region : Fin 16) (old : Slot) (l : Line) (position : Nat) : Slot :=
  { old with
    state := .readOld, domain := d, line := l, region := region, position := position, epoch := (s.dom d).epoch,
    stamp := s.time.tick, readIssued := false, writeHanded := false, deadline := s.deadlineIn s.time.memTimeout }

/-- The n slots of an allocation set one after another, the lowest line in the lowest slot at the lowest position; each
slot's old-line read is handed over if it may go (R48, R53). -/
def State.fillSlots (s : State) (d : DomId) (region : Fin 16) : List SlotId → List Line → Nat → State
  | k :: ks, l :: ls, position =>
    State.fillSlots ((s.setSlot k (s.allocatedSlot d region (s.slot k) l position)).handCaptureRead k) d region ks ls
      (position + 1)
  | _, _, _ => s

/-- A reservation of n positions and n slots: occupancy and slots in use rise by n, and at the high mark with pressure 0
the pressure bit rises, PRESSURE[d] is raised and PRESSURE_EVENTS counted (R48, R49). -/
def State.reserve (s : State) (d : DomId) (n : Nat) : State :=
  let x := s.dom d
  let t := s.setDom d { x with occupancy := x.occupancy + n, slotsInUse := x.slotsInUse + n }
  if decide (x.config.highMark ≤ x.occupancy + n) && !x.pressure then
    ((t.updDom d fun y => { y with pressure := true }).raise (.pressure d)).count d .pressureEvents 1
  else t

/-- An allocation for an entry of domain d: the lowest FREE slots and the positions from the domain's occupancy upward
(R48). -/
def State.allocateSlots (s : State) (d : DomId) (region : Fin 16) (lines : List Line) : State :=
  (s.reserve d lines.length).fillSlots d region s.freeSlots lines (s.dom d).occupancy

/-- A domain's entry to BROKEN by a BROKEN cause: BROKEN[d] raised and a sweep requested; epoch, occupancy, pressure and
anchors kept (R35). -/
def State.breakDomain (s : State) (d : DomId) : State :=
  ((s.updDom d fun x => { x with state := .broken }).raise (.broken d)).requestSweep d

/-- A forwarding with its filter hits counted in the entry's domain; no hit, no increment (R93, R139). -/
def State.forwardCounting (s : State) (e : Entry) (hits : Nat) : State :=
  let t := s.forwardEntry e
  match e.domain with
  | some d => if hits = 0 then t else t.count d .filterHits hits
  | none => t

/-- The fault of a failed space check: the domain, the initiator ID and the first address (R51, R52). -/
def State.journalFull (s : State) (d : DomId) (e : Entry) : State :=
  s.fault .journalFull (domain := some d) (initiator := some e.req.header.id) (address := some e.req.header.addr)

/-- A decision carried out for a request; `keep` holds the request if it is held: enqueued at its first evaluation, replaced
in its place at a re-evaluation (R88, R90, R93, R94). -/
def State.carryOut (s : State) (keep : State → Entry → State) (e : Entry) : Decision → State
  | .forward hits => s.forwardCounting e hits
  | .refuseOff =>
    match e.domain with
    | some d => (s.refuseEntry e).count d .refused 1
    | none => s.refuseEntry e
  | .refuseFull =>
    match e.domain with
    | some d => ((s.refuseEntry e).count d .refused 1).journalFull d e
    | none => s.refuseEntry e
  | .breakForward =>
    match e.domain with
    | some d => ((s.journalFull d e).breakDomain d).forwardEntry e
    | none => s.forwardEntry e
  | .hold wait uncovered carried =>
    keep s { e with wait := wait, uncovered := uncovered, carried := carried }
  | .allocate lines =>
    match e.domain with
    | some d =>
      keep (s.allocateSlots d (e.region.getD 0) lines)
        { e with wait := .capture, uncovered := lines, own := e.own ++ lines.filter fun l => decide (l ∉ e.own),
                 carried := false }
    | none => keep s e

/-- Whether an entry waits for the capture path: CAPTURE, LINE, SLOT or SPACE (R60). -/
def capturePathWait (e : Entry) : Bool :=
  decide (e.wait = .capture) || decide (e.wait = .line) || decide (e.wait = .slot) || decide (e.wait = .space)

/-- The entries of a domain that its entry to BROKEN re-evaluates (R60). -/
def State.breakSet (s : State) (d : DomId) : List Nat :=
  s.arrivals fun e => decide (e.domain = some d) && capturePathWait e

/-- The entries waiting ORDER of an initiator ID and a direction (R91). -/
def State.orderWaiters (s : State) (id : InitId) (dir : Dir) : List Nat :=
  s.arrivals fun e => decide (e.wait = .order) && decide (e.req.header.id = id) && decide (e.req.kind = dir)

/-- A list of arrival sequences with those of another added that are not in it. -/
def addMissing (todo more : List Nat) : List Nat := todo ++ more.filter fun a => decide (a ∉ todo)

/-- The work list of a happening (R91): the entry with the lowest arrival sequence in the list is taken and re-evaluated; if
it leaves, the ORDER waiters of its ID and direction join the list; if it breaks its domain, the entries of R60 not yet
re-evaluated under this happening join it. `seen` holds the entries already re-evaluated. The first argument bounds the
number of steps (`State.reevaluate`). -/
def State.workList : Nat → List Nat → List Nat → State → State
  | 0, _, _, s => s
  | fuel + 1, todo, seen, s =>
    match s.hold.find? fun e => decide (e.arrival ∈ todo) with
    | none => s
    | some e =>
      let dec := s.decision e
      let s' := s.carryOut State.replaceEntry e dec
      let rest := todo.filter fun a => decide (a ≠ e.arrival)
      let seen' := e.arrival :: seen
      let released := if dec.leaves then addMissing rest (s'.orderWaiters e.req.header.id e.req.kind) else rest
      let todo' :=
        match dec, e.domain with
        | .breakForward, some d => addMissing released ((s'.breakSet d).filter fun a => decide (a ∉ seen'))
        | _, _ => released
      State.workList fuel todo' seen' s'

/-- The steps a work list can take at most: each step takes an entry out of the list, and only a departure adds entries, so
with q entries held there are at most (q + 1) departures and lists of at most q entries between them. -/
def workBound (q : Nat) : Nat := (q + 1) * (q + 1)

/-- The re-evaluations of a happening, from the set of entries its rule names (R91). -/
def State.reevaluate (s : State) (set : List Nat) : State := State.workList (workBound s.hold.length) set [] s

/-- The ORDER waiters behind entries that have left the queue, for each departed entry (R18, R91). -/
def State.waitersBehind (s : State) (departed : List Entry) : List Nat :=
  s.arrivals fun e =>
    decide (e.wait = .order) &&
      departed.any fun x => decide (x.req.header.id = e.req.header.id) && decide (x.req.kind = e.req.kind)

end Sys2Proof.Machine
end

