-- ==== Sys2Proof/Machine/Lifecycle.lean ====
section
/-! DEFINITION. Domain transitions and the replay engine as shared operations: the end of an operation, entry to OFF, the
release of waiters, the drain, capture failures, walks and their ends, anchor outcomes (chapters 2, 3, 6 and 7). -/

namespace Sys2Proof.Machine

/-! ### Ends of operations -/

/-- The end of an operation: the last result is set and DONE[d] is raised (R28). -/
def State.endOperation (s : State) (d : DomId) (r : OpResult) : State :=
  (s.updDom d fun x => { x with lastResult := r, anchor := .idle }).raise (.done d)

/-- The held entries of a domain that the end of its operation in OPEN or BROKEN re-evaluates (R92). -/
def State.operationWaiters (s : State) (d : DomId) : List Nat :=
  s.arrivals fun e =>
    decide (e.domain = some d) && (decide (e.wait = .drain) || decide (e.wait = .roll) || decide (e.wait = .space))

/-- The release of a domain's waiters at the end of its operation (R92). -/
def State.releaseWaiters (s : State) (d : DomId) : State := s.reevaluate (s.operationWaiters d)

/-- One held entry of a domain entering OFF: a write is refused and counted REFUSED, a read not waiting ORDER is forwarded,
a read waiting ORDER loses its domain (R34). -/
def State.offEntry (d : DomId) (s : State) (e : Entry) : State :=
  match e.req.kind with
  | .write => (s.refuseEntry e).count d .refused 1
  | .read => if e.wait = .order then s.replaceEntry { e with domain := none } else s.forwardEntry e

/-- A domain's entry to OFF: occupancy, pressure and broken mark become 0, the guard lifts with the state, and its held
entries are dealt with in arrival order; the ORDER waiters behind those that leave are re-evaluated (R34, R91). -/
def State.enterOff (s : State) (d : DomId) : State :=
  let t := s.updDom d fun x =>
    { x with state := .off, occupancy := 0, pressure := false, brokenMark := false, anchor := .idle }
  let mine := t.hold.filter fun e => decide (e.domain = some d)
  let dealt := mine.foldl (State.offEntry d) t
  dealt.reevaluate (dealt.waitersBehind (mine.filter fun e => decide (e.req.kind = .write) || decide (e.wait ≠ .order)))

/-- An operation that fails into OFF: last result, entry to OFF, DONE[d] (R30, R31, R134). -/
def State.failToOff (s : State) (d : DomId) (r : OpResult) : State := (s.enterOff d).endOperation d r

/-- An operation that fails into BROKEN: the last result is FAILED and the broken mark 0, the domain enters BROKEN, DONE[d]
is raised, and the held entries are re-evaluated under BROKEN (R114, R129). -/
def State.failToBroken (s : State) (d : DomId) : State :=
  let broken := (s.updDom d fun x => { x with brokenMark := false }).breakDomain d
  (broken.endOperation d .failed).releaseWaiters d

/-- The fault of a failed anchor or invalidating write (R30, R31, R114, R129, R134). -/
def State.anchorFault (s : State) (d : DomId) (a : Addr) : State :=
  s.fault .anchorFailed (domain := some d) (address := some a)

/-! ### Anchor writes -/

/-- The domain controller prepares the anchor of an epoch and hands it over if it may go (R110, R128, R134). -/
def State.prepareAnchor (s : State) (d : DomId) (e : Epoch) (r : OpResult) : State :=
  (s.updDom d fun x => { x with anchor := .held e r }).handAnchorWrite d

/-- The new epoch of an acknowledged anchor write: epoch, occupancy 0, pressure 0 (R26, R30, R112, R128, R134). -/
def openEpoch (e : Epoch) (x : Domain) : Domain := { x with epoch := e, occupancy := 0, pressure := false }

/-- The epoch that a domain's anchor write carries, as it was handed over. -/
def sentEpoch (x : Domain) : Epoch :=
  match x.anchor with
  | .sent e _ | .held e _ => e
  | .idle | .invalidating => x.epoch

/-- The result with which a domain's operation ends when its anchor write is acknowledged (R128). -/
def sentResult (x : Domain) : OpResult :=
  match x.anchor with
  | .sent _ r | .held _ r => r
  | .idle | .invalidating => .ok

/-- A commit's anchor write acknowledged (R112). -/
def State.commitSucceeds (s : State) (d : DomId) : State :=
  let e := sentEpoch (s.dom d)
  let opened := s.updDom d fun x => { openEpoch e x with brokenMark := false, state := .openState, lastResult := .ok }
  (((opened.requestSweep d).count d .commits 1).endOperation d .ok).releaseWaiters d

/-- A rollback's anchor write acknowledged (R128). -/
def State.rollbackSucceeds (s : State) (d : DomId) : State :=
  let e := sentEpoch (s.dom d)
  let r := sentResult (s.dom d)
  let opened := s.updDom d fun x => { openEpoch e x with state := .openState, lastResult := r }
  (((opened.requestSweep d).count d .rollbacks 1).endOperation d r).releaseWaiters d

/-- A recovery's anchor write acknowledged (R134). -/
def State.recoverSucceeds (s : State) (d : DomId) : State :=
  let e := sentEpoch (s.dom d)
  let opened := s.updDom d fun x => { openEpoch e x with state := .openState, lastResult := .ok }
  ((opened.requestSweep d).endOperation d .ok).releaseWaiters d

/-- FORMAT's slot 1 write acknowledged: epoch, occupancy and pressure, a sweep requested, and the invalidating write handed
over without waiting for it (R30, R31). -/
def State.formatSlot1Succeeds (s : State) (d : DomId) : State :=
  let e := sentEpoch (s.dom d)
  let opened := (s.updDom d fun x => { openEpoch e x with anchor := .invalidating }).requestSweep d
  opened.handOver (invalidatingWrite d (opened.dom d) (opened.deadlineIn opened.time.memTimeout))

/-- FORMAT's invalidating write acknowledged: the domain enters OPEN and its waiters are released (R31). -/
def State.formatSucceeds (s : State) (d : DomId) : State :=
  ((s.updDom d fun x => { x with state := .openState }).endOperation d .ok).releaseWaiters d

/-- The failure of an anchor write or invalidating write, by its use, whether answered with another code or timed out (R30,
R31, R114, R129, R134). -/
def State.anchorFails (s : State) (d : DomId) (use : AnchorUse) (a : Addr) : State :=
  let t := s.anchorFault d a
  match use with
  | .formatSlot1 | .formatInvalidate | .recover => t.failToOff d .failed
  | .commit | .rollback => t.failToBroken d

/-! ### Walks of the replay engine -/

/-- The walk of a ROLLBACK as it starts: walk epoch the domain's, cursor at occupancy − 1 (R120, R127). -/
def rollbackWalk (d : DomId) (x : Domain) : Walk :=
  { kind := .rollback, domain := d, phase := .walk, epoch := x.epoch, cursor := some (x.occupancy - 1), buffer := none,
    readOut := none, writeOut := none, skips := 0, failures := 0 }

/-- The walk of a RECOVER as it starts, in phase ANCHOR_READ (R131). Its walk epoch 0 and its cursor −1 until an anchor is
selected are the model's choice (R119; notes/assumptions/32.md). -/
def recoverWalk (d : DomId) : Walk :=
  { kind := .recover, domain := d, phase := .anchorRead .waiting, epoch := 0#32, cursor := none, buffer := none,
    readOut := none, writeOut := none, skips := 0, failures := 0 }

/-- The start of a domain's walk: the first record read of a ROLLBACK, or the first anchor read of a RECOVER if it may go
(R120, R121, R131). -/
def State.startWalk (s : State) (d : DomId) : State :=
  if (s.dom d).state = .recovering then (s.setWalk (some (recoverWalk d))).handAnchorRead
  else (s.setWalk (some (rollbackWalk d (s.dom d)))).issueRecordRead

/-- A claim of the replay engine: the walk starts if the engine is idle and its wait list empty, and otherwise the domain
joins the tail of the list (R120). -/
def State.claimEngine (s : State) (d : DomId) : State :=
  if decide (s.replay.walk = none) && decide (s.replay.waiting = []) then s.startWalk d
  else { s with replay := { s.replay with waiting := s.replay.waiting ++ [d] } }

/-- The engine takes the next walk from its wait list (R120, R125). -/
def State.nextWalk (s : State) : State :=
  match s.replay.waiting with
  | [] => s
  | d :: rest => State.startWalk { s with replay := { s.replay with waiting := rest } } d

/-- The result of a walk by its tallies (R119). -/
def walkResult (w : Walk) : OpResult :=
  if w.failures ≠ 0 then .failed else if w.skips ≠ 0 then .partialResult else .ok

/-- The last epoch, 2^32 − 1 (R26). -/
def lastEpoch : Epoch := BitVec.allOnes 32

/-- The end of a RECOVER's walk at the domain controller (R134). -/
def State.recoverWalkEnds (s : State) (d : DomId) (e : Epoch) (r : OpResult) : State :=
  match r with
  | .failed | .noAnchor => s.failToOff d r
  | .ok | .partialResult => if e = lastEpoch then s.failToOff d .failed else s.prepareAnchor d (e + 1#32) .ok

/-- The end of a ROLLBACK's walk at the domain controller (R128, R129). -/
def State.rollbackWalkEnds (s : State) (d : DomId) (r : OpResult) : State :=
  match r with
  | .failed | .noAnchor => s.failToBroken d
  | .ok | .partialResult => s.prepareAnchor d ((s.dom d).epoch + 1#32) r

/-- The end of a walk: the engine hands the result to the domain controller and takes the next walk (R125). -/
def State.endWalk (s : State) (w : Walk) (r : OpResult) : State :=
  let t := s.setWalk none
  match w.kind with
  | .rollback => (t.rollbackWalkEnds w.domain r).nextWalk
  | .recover => (t.recoverWalkEnds w.domain w.epoch r).nextWalk

/-- Whether a walk in phase WALK has nothing left: cursor at −1, buffer empty, nothing outstanding (R125). -/
def walkFinished (w : Walk) : Bool :=
  decide (w.phase = .walk) && decide (w.cursor = none) && decide (w.buffer = none) && decide (w.readOut = none) &&
    decide (w.writeOut = none)

/-- A walk goes on after an answer, a judgement or a timeout: the buffered write is handed over if it may go, the next read
is issued if it may be, and a walk with nothing left ends (R121, R123, R125). -/
def State.advanceWalk (s : State) : State :=
  let t := s.handReplayWrite.issueRecordRead
  match t.replay.walk with
  | some w => if walkFinished w then t.endWalk w (walkResult w) else t
  | none => t

/-- Whether a record is replayable: valid for the walk's domain and epoch, and its line in no area of that domain nor of any
other domain not in OFF (R122). -/
def State.replayable (s : State) (w : Walk) (record : List Byte) : Bool :=
  let first := (lineAddr (recordLine record)).toNat
  let line := (first, first + Config.lineBytes)
  recordValid record w.domain w.epoch &&
    allDoms.all fun d =>
      !(decide (d = w.domain) || decide ((s.dom d).state ≠ .off)) ||
        (!rangesMeet line (journalArea (s.dom d).config) && !rangesMeet line (anchorSpan (s.dom d).config))

/-- A record passed over: a bad record of a ROLLBACK counts in the skip tally and in SKIPPED and enqueues REPLAY_BAD_RECORD;
in a RECOVER it is passed over silently (R127, R133). -/
def State.passOver (s : State) (w : Walk) (position : Nat) : State :=
  match w.kind with
  | .rollback =>
    ((s.setWalk (some { w with skips := w.skips + 1 })).count w.domain .skipped 1).fault .replayBadRecord
      (domain := some w.domain) (position := some position)
  | .recover => s

/-- The judgement of the record read from a position: a replayable record enters the record buffer, where the deadline of
its replay write starts, and any other is passed over (R121, R122, R157). -/
def State.judgeRecord (s : State) (w : Walk) (position : Nat) (record : List Byte) : State :=
  if s.replayable w record then
    let b : Buffered := { position := position, record := record, deadline := s.deadlineIn s.time.memTimeout }
    s.setWalk (some { w with buffer := some b })
  else s.passOver w position

/-- A record read that failed, by its code or by timeout (R124). -/
def State.recordReadFails (s : State) (w : Walk) (position : Nat) : State :=
  (s.setWalk (some { w with readOut := none, failures := w.failures + 1 })).fault .replayReadFailed
    (domain := some w.domain) (address := some (recordAddr (s.dom w.domain).config position)) (position := some position)

/-- A replay write that failed, by its code or by timeout: the tally and the fault (R124). -/
def State.replayWriteFails (s : State) (w : Walk) (position : Nat) (a : Addr) : State :=
  (s.setWalk (some { w with failures := w.failures + 1 })).fault .replayWriteFailed
    (domain := some w.domain) (address := some a) (position := some position)

/-- The anchor that RECOVER selects from its two lines: the slot's line, or the result with which the walk ends (R132, steps
2 to 4). -/
def selectAnchor (d : DomId) (capacity : Nat) (line0 line1 : List Byte) : Except OpResult (List Byte) :=
  let chosen : Option (List Byte) :=
    if anchorValid line0 d then
      if anchorValid line1 d then
        if (anchorEpoch line0).toNat = (anchorEpoch line1).toNat then
          some (if (anchorEpoch line0).toNat % 2 = 0 then line0 else line1)
        else if (anchorEpoch line1).toNat < (anchorEpoch line0).toNat then some line0
        else some line1
      else some line0
    else if anchorValid line1 d then some line1
    else none
  match chosen with
  | none => .error .noAnchor
  | some line => if anchorCapacity line = capacity then .ok line else .error .failed

/-- The fault of a failed anchor read (R132, step 1). -/
def State.anchorReadFault (s : State) (d : DomId) (slot1 : Bool) : State :=
  s.fault .replayReadFailed (domain := some d) (address := some (anchorRead d (s.dom d).config slot1 none).addr)

/-- Both anchor reads have ended: a fault for each that failed and the walk ends FAILED; or the restore point is selected
and the record walk begins at the top of the journal; or the walk ends (R132). -/
def State.anchorReadsEnd (s : State) (w : Walk) (first second : Option (List Byte)) : State :=
  match first, second with
  | some line0, some line1 =>
    match selectAnchor w.domain (s.dom w.domain).config.capacity line0 line1 with
    | .ok line =>
      let top := lowerCursor (s.dom w.domain).config.capacity
      (s.setWalk (some { w with phase := .walk, epoch := anchorEpoch line, cursor := top })).advanceWalk
    | .error r => s.endWalk w r
  | _, _ =>
    let t := if first.isNone then s.anchorReadFault w.domain false else s
    (if second.isNone then t.anchorReadFault w.domain true else t).endWalk w .failed

/-- An anchor read has ended, with its 64 bytes or with a failure: after slot 0 the read of slot 1 is handed over, after
slot 1 the restore point is selected (R131, R132). A failed anchor read is not counted in the failure tally
(notes/assumptions/33.md). -/
def State.anchorReadEnds (s : State) (w : Walk) (outcome : Option (List Byte)) : State :=
  match w.phase with
  | .anchorRead (.slot1 first) => s.anchorReadsEnd w first outcome
  | .anchorRead _ | .walk =>
    (s.setWalk (some { w with phase := .anchorRead (.slot1 outcome) })).handOver
      (anchorRead w.domain (s.dom w.domain).config true (s.deadlineIn s.time.memTimeout))

/-! ### The drain -/

/-- The start of a drain: DRAINING with the operation pending; the domain's CAPTURE and LINE waiters become carried and its
SLOT and SPACE waiters take wait DRAIN; no entry is re-evaluated (R32, R87). -/
def State.startDrain (s : State) (d : DomId) (p : Pending) : State :=
  let t := s.updDom d fun x => { x with state := .draining, pending := p }
  { t with hold := t.hold.map fun e =>
      if e.domain = some d then
        match e.wait with
        | .capture | .line => { e with carried := true }
        | .slot | .space => { e with wait := .drain }
        | .order | .drain | .roll => e
      else e }

/-- The carried entries of a domain (R61). -/
def State.carriedEntries (s : State) (d : DomId) : List Nat :=
  s.arrivals fun e => decide (e.domain = some d) && e.carried

/-- The entry of a rollback to ROLLING: with occupancy above zero the domain claims the replay engine, and otherwise its
walk ends OK at once (R120, R127, R128). -/
def State.enterRolling (s : State) (d : DomId) : State :=
  let t := s.updDom d fun x => { x with state := .rolling }
  if (s.dom d).occupancy = 0 then t.rollbackWalkEnds d .ok else t.claimEngine d

/-- The end of a rollback's drain with the broken mark set: last result FAILED, the mark cleared, the domain in BROKEN
without BROKEN[d] or a sweep again, DONE[d], and the held entries re-evaluated under BROKEN (R38). -/
def State.markedRollbackEnds (s : State) (d : DomId) : State :=
  ((s.updDom d fun x => { x with state := .broken, brokenMark := false }).endOperation d .failed).releaseWaiters d

/-- The end of a drain: pending becomes none, carried entries stop being carried, and the domain moves on as its operation
requires (R32, R33, R38). That CLOSE requests its sweep after R34's dealings and their re-evaluations is the model's choice
(R33, R78; notes/assumptions/30.md). -/
def State.endDrain (s : State) (d : DomId) : State :=
  let p := (s.dom d).pending
  let t := s.updDom d fun x => { x with pending := .none }
  let u := { t with hold := t.hold.map fun e => if e.domain = some d then { e with carried := false } else e }
  match p with
  | .commit => (u.updDom d fun x => { x with state := .committing }).prepareAnchor d ((u.dom d).epoch + 1#32) .ok
  | .rollback => if (u.dom d).brokenMark then u.markedRollbackEnds d else u.enterRolling d
  | .close => ((u.enterOff d).requestSweep d).endOperation d .ok
  | .none => u

/-- The end of a drain, if the domain is DRAINING and its slots in use is zero (R32, R58). -/
def State.endDrainIfDone (s : State) (d : DomId) : State :=
  if decide ((s.dom d).state = .draining) && decide ((s.dom d).slotsInUse = 0) then s.endDrain d else s

/-! ### Captures -/

/-- A BROKEN cause from a capture: an OPEN domain enters BROKEN; a DRAINING domain without the mark takes it, with
BROKEN[d] raised and a sweep requested; otherwise nothing (R35, R38, R55, R59). -/
def State.captureBreaks (s : State) (d : DomId) : State :=
  match (s.dom d).state with
  | .openState => s.breakDomain d
  | .draining =>
    if (s.dom d).brokenMark then s
    else ((s.updDom d fun x => { x with brokenMark := true }).raise (.broken d)).requestSweep d
  | _ => s

/-- The entries that a capture failure re-evaluates beside those of R58: of R60 for a domain in OPEN, of R61 for one in
DRAINING without the mark. -/
def State.failureSet (s : State) (d : DomId) : List Nat :=
  match (s.dom d).state with
  | .openState => s.breakSet d
  | .draining => if (s.dom d).brokenMark then [] else s.carriedEntries d
  | _ => []

/-- The entries that the freeing of a slot re-evaluates: the CAPTURE and LINE waiters of its line, and every SLOT waiter
(R58). -/
def State.freeingSet (s : State) (l : Line) : List Nat :=
  s.arrivals fun e =>
    decide (e.wait = .slot) ||
      ((decide (e.wait = .capture) || decide (e.wait = .line)) && decide (l ∈ e.uncovered))

/-- A slot freed: its state becomes FREE and its domain's slots in use falls by one (R55, R57, R59). -/
def State.freeSlot (s : State) (k : SlotId) : State :=
  let x := s.slot k
  (s.setSlot k { x with state := .free, deadline := none }).updDom x.domain fun y =>
    { y with slotsInUse := y.slotsInUse - 1 }

/-- The end of a capture: the slot is freed, the entries of R58 and of the failure are re-evaluated in arrival order, and
then the drain of the slot's domain ends if its slots in use is zero (R58). -/
def State.finishCapture (s : State) (k : SlotId) (more : List Nat) : State :=
  let x := s.slot k
  let t := s.freeSlot k
  (t.reevaluate (addMissing (t.freeingSet x.line) more)).endDrainIfDone x.domain

/-- The failure of a capture: its fault, the BROKEN cause, and the end of the capture (R55, R59). -/
def State.captureFails (s : State) (k : SlotId) (kind : FaultKind) : State :=
  let x := s.slot k
  let t := s.fault kind (domain := some x.domain) (address := some (lineAddr x.line)) (position := some x.position)
  (t.captureBreaks x.domain).finishCapture k (t.failureSet x.domain)

/-- Whether the line filter takes an insertion for a domain: in OPEN, or in DRAINING without the broken mark (R57). -/
def takesInsertion (x : Domain) : Bool :=
  match x.state with
  | .openState => true
  | .draining => !x.brokenMark
  | _ => false

/-- A record durable: CAPTURES, the insertion, and the end of the capture (R57). -/
def State.recordDurable (s : State) (k : SlotId) : State :=
  let x := s.slot k
  let t := s.count x.domain .captures 1
  let u := if takesInsertion (t.dom x.domain) then t.filterInsert x.domain x.line (epochParity x.epoch) else t
  u.finishCapture k []

/-- A slot's entry to WRITE_RECORD with the line's old contents; the record write's deadline starts here, and the write is
handed over if it may go (R54, R56, R57, R157). -/
def State.oldLineRead (s : State) (k : SlotId) (line : List Byte) : State :=
  (s.setSlot k { s.slot k with
    state := .writeRecord, buffer := line, writeHanded := false,
    deadline := s.deadlineIn s.time.memTimeout }).handRecordWrite k

end Sys2Proof.Machine
end

