-- ==== Sys2Proof/Machine/Access.lean ====
section
/-! DEFINITION. The commands of the two bus ports: READ_REQUEST, WRITE_ADDRESS_TAKEN, WRITE_REQUEST, MSP_ISSUE,
FORWARDED_RESPONSE, UPSTREAM_RESPONSE, ABSORBED_RESPONSE and LATE_RESPONSE (chapter 1, R86, R159). -/

namespace Sys2Proof.Machine

/-- A command of the part in operation: while the part is in reset nothing comes about (R20, R174, R180). -/
def whileRunning (f : State → State) (s : State) : Host.Outcome State Fault Refusal :=
  .next (if s.inReset then s else f s)

/-- The hold queue has room: at least one of its 32 places is neither occupied nor kept (R86). -/
def State.hasRoom (s : State) : Bool := decide (s.hold.length + s.host.kept.length < Config.holdPlaces)

/-- The two conditions under which the port takes an address (R1). A write whose address is taken counts towards the 64, so
that the response lists never hold more together (R19; notes/assumptions/11.md). -/
def State.takesAddress (s : State) : Bool :=
  s.hasRoom && decide (s.host.unanswered.length + s.host.kept.length < Config.maxUnanswered)

/-- The region table entry that governs an address: the lowest-numbered valid entry whose range contains it (R9). -/
def State.governing (s : State) (a : Nat) : Option (Fin 16) :=
  allRegions.find? fun i =>
    s.regions[i].valid && decide ((regionRange s.regions[i]).1 ≤ a) && decide (a < (regionRange s.regions[i]).2)

/-- The domain not in OFF whose journal area or anchor lines a write meets, the lowest-numbered if there are two (R13). -/
def State.guardMet (s : State) (h : Header) : Option DomId :=
  allDoms.find? fun d => decide ((s.dom d).state ≠ .off) && meetsAreas h (s.dom d).config

/-- What classification makes of a request (R7, steps 1 to 5). -/
inductive Class where
  /-- refused as a bad burst, with the domain of the JOURNAL entry if there is one (R3, R14) -/
  | badBurst (domain : Option DomId)
  /-- refused by the built-in guard of a domain, or by a GUARD region (R12, R13) -/
  | guardWrite (domain : Option DomId)
  /-- to be evaluated, with what step 3 records -/
  | evaluate (region : Option (Fin 16)) (mode : Mode) (domain : Option DomId)
deriving DecidableEq, Repr

/-- The classification by a region table entry (R7, steps 3 to 5; R11, R12, R14). -/
def classifyRegion (i : Fin 16) (r : Region) (q : Request) : Class :=
  match r.mode with
  | .pass => .evaluate (some i) .pass none
  | .guarded => if q.kind = .write then .guardWrite none else .evaluate (some i) .guarded none
  | .journal =>
    if decide (q.header.burst ≠ .incr) || q.header.exclusive then .badBurst (some r.domain)
    else .evaluate (some i) .journal (some r.domain)

/-- The classification of a request by steps 1 to 5, the first that decides ending it (R7). -/
def State.classify (s : State) (q : Request) : Class :=
  if crossesPage q.header || decide (Config.maxBeats < q.header.len) then .badBurst none
  else
    match if q.kind = .write then s.guardMet q.header else none with
    | some d => .guardWrite (some d)
    | none =>
      match s.governing q.header.addr.toNat with
      | some i => classifyRegion i s.regions[i] q
      | none => .evaluate none .pass none

/-- A request refused at steps 1 to 5 of classification: its global counter and its fault (R3, R12 to R14). -/
def State.refuseAtAcceptance (s : State) (arrival : Nat) (q : Request) (c : GlobalCounter) (kind : FaultKind)
    (domain : Option DomId) : State :=
  ((s.setMark arrival .refused).countGlobal c).fault kind (domain := domain) (initiator := some q.header.id)
    (address := some q.header.addr)

/-- The first evaluation of an accepted request (R7, step 6); where the BREAK policy breaks the domain, the entries of R60
are then re-evaluated (R52). -/
def State.evaluateFirst (s : State) (e : Entry) : State :=
  let dec := s.decision e
  let t := s.carryOut State.enqueueEntry e dec
  match dec, e.domain with
  | .breakForward, some d => t.reevaluate (t.breakSet d)
  | _, _ => t

/-- WRITES_SEEN of its domain counted for a JOURNAL write that reaches step 6 (R7). -/
def State.countWriteSeen (s : State) (q : Request) (domain : Option DomId) : State :=
  match q.kind, domain with
  | .write, some d => s.count d .writesSeen 1
  | _, _ => s

/-- The acceptance of a request: it takes the next position of the acceptance order and its place in its response list, is
classified, and is refused or evaluated for the first time (R1, R7, R19). -/
def State.accept (s : State) (q : Request) : State :=
  let n := s.host.nextArrival
  let u : Unanswered := { arrival := n, id := q.header.id, kind := q.kind, len := q.header.len, mark := .held }
  let t := { s with host := { s.host with nextArrival := n + 1, unanswered := s.host.unanswered ++ [u] } }
  match s.classify q with
  | .badBurst d => t.refuseAtAcceptance n q .badBursts .badBurst d
  | .guardWrite d => t.refuseAtAcceptance n q .guardRefused .guardWrite d
  | .evaluate region mode domain =>
    (t.countWriteSeen q domain).evaluateFirst
      { req := q, region := region, mode := mode, domain := domain, arrival := n, wait := .order, uncovered := [],
        own := [], carried := false, deadline := none }

/-- READ_REQUEST: the read address is taken, and the read accepted, if the port takes an address; otherwise the
interconnect keeps it (R1, R7). -/
def execReadRequest (h : Header) (s : State) : Host.Outcome State Fault Refusal :=
  whileRunning (fun s => if s.takesAddress then s.accept { header := h, kind := .read, data := [] } else s) s

/-- WRITE_ADDRESS_TAKEN: the write address is taken and keeps a place, if the port takes an address (R1, R86). That it may be
taken while an earlier write's data still arrive is the model's choice (notes/assumptions/29.md). -/
def execWriteAddressTaken (h : Header) (s : State) : Host.Outcome State Fault Refusal :=
  whileRunning (fun s =>
    if s.takesAddress then { s with host := { s.host with kept := s.host.kept ++ [h] } } else s) s

/-- WRITE_REQUEST: the data beats of the oldest kept write have arrived; its kept place is used or given back and the write
is accepted (R1, R7, R86). -/
def execWriteRequest (beats : List WriteBeat) (s : State) : Host.Outcome State Fault Refusal :=
  whileRunning (fun s =>
    match s.host.kept with
    | h :: rest =>
      if beats.length = h.len then
        State.accept { s with host := { s.host with kept := rest } } { header := h, kind := .write, data := beats }
      else s
    | [] => s) s

/-! ### The memory-side port -/

/-- Whether a downstream ID is one of 16 to 31 that no own access of the direction holds (R6). -/
def idFree (m : MemSide) (id : DownId) : Bool :=
  decide (Config.ownIds ≤ id.toNat) && m.issuedOwn.all fun i => decide (i.id ≠ id)

/-- Whether a downstream ID is free for the head of the own list (R5, R6). -/
def ownReady (m : MemSide) : Bool :=
  decide (m.own ≠ []) && (List.range Config.ownIds).any fun n => idFree m (BitVec.ofNat 5 (Config.ownIds + n))

/-- The list that a direction issues from: the only one whose head is ready, or the one the turn names (R5). -/
def issueFrom (m : MemSide) : Option Turn :=
  match decide (m.forwarded ≠ []), ownReady m with
  | true, true => some m.turn
  | true, false => some .forwarded
  | false, true => some .own
  | false, false => none

/-- The issue of the head of a list, which sets the turn to the other list; an own access takes the ID given (R5, R6). -/
def issueHead (m : MemSide) (id : DownId) : Turn → MemSide
  | .forwarded =>
    match m.forwarded with
    | f :: rest => { m with forwarded := rest, issued := m.issued ++ [f], turn := .own }
    | [] => m
  | .own =>
    match m.own with
    | a :: rest =>
      if idFree m id then
        { m with own := rest, issuedOwn := m.issuedOwn ++ [{ id := id, access := a, timedOut := false }],
                 turn := .forwarded }
      else m
    | [] => m

/-- MSP_ISSUE: the memory-side port issues the head of a list of a direction, if one is ready (R5, R6). -/
def execMspIssue (dir : Dir) (id : DownId) (s : State) : Host.Outcome State Fault Refusal :=
  whileRunning (fun s =>
    match issueFrom (s.side dir) with
    | some t => s.setSide dir (issueHead (s.side dir) id t)
    | none => s) s

/-- The direction of a response. -/
def respDir : MemResp → Dir
  | .read _ => .read
  | .write _ => .write

/-- Whether a response can be the answer to a request: a read is answered with as many beats as its length. -/
def respFits (q : Request) : MemResp → Bool
  | .read beats => decide (beats.length = q.header.len)
  | .write _ => true

/-- The oldest issued forwarded access of an initiator ID: memory answers each downstream ID in order (R6, R19). -/
def State.oldestIssued (s : State) (id : InitId) (dir : Dir) : Option Forwarded :=
  (s.side dir).issued.find? fun f => decide (f.req.header.id = id)

/-- A forwarded access answered: it is no longer outstanding (R53). -/
def State.dropIssued (s : State) (dir : Dir) (arrival : Nat) : State :=
  let m := s.side dir
  s.setSide dir { m with issued := m.issued.filter fun f => decide (f.arrival ≠ arrival) }

/-- A response of memory at the upstream channel: passed upstream as it arrives, if the channel is free, no earlier response
is held and its request is the oldest of its list; otherwise held at the memory-side port behind those already held (R19). -/
def State.deliver (s : State) (id : InitId) (resp : MemResp) (busy : Bool) : State :=
  let dir := respDir resp
  let hold := s.setUp dir { s.up dir with waiting := (s.up dir).waiting ++ [{ id := id, resp := resp }] }
  match s.responseList id dir with
  | u :: _ =>
    if !busy && decide ((s.up dir).waiting = []) && decide (u.mark = .forwarded) then s.giveUpstream u resp else hold
  | [] => s

/-- FORWARDED_RESPONSE: memory answers the oldest issued forwarded access of an ID; the response goes upstream unchanged, and
what a forwarded write held back is handed over (R4, R6, R19, R29, R53, R123, R131). -/
def execForwardedResponse (id : InitId) (resp : MemResp) (busy : Bool) (s : State) : Host.Outcome State Fault Refusal :=
  whileRunning (fun s =>
    match s.oldestIssued id (respDir resp) with
    | some f =>
      if respFits f.req resp then
        let t := (s.dropIssued (respDir resp) f.arrival).deliver id resp busy
        match respDir resp with
        | .write => t.releaseHeld
        | .read => t
      else s
    | none => s) s

/-- The head of a response list answered: a refused request with ERROR (R4); a forwarded request with the response held
first at the memory-side port, if it is its own (R19). -/
def State.answerHead (s : State) (dir : Dir) (u : Unanswered) : State :=
  match u.mark with
  | .held => s
  | .refused => s.giveUpstream u (refusalResponse u)
  | .forwarded =>
    match (s.up dir).waiting with
    | r :: rest =>
      if r.id = u.id then (s.setUp dir { s.up dir with waiting := rest }).giveUpstream u r.resp else s
    | [] => s

/-- UPSTREAM_RESPONSE: the response ready at the head of a list takes the free channel of its direction (R19). -/
def execUpstreamResponse (dir : Dir) (id : InitId) (s : State) : Host.Outcome State Fault Refusal :=
  whileRunning (fun s =>
    match s.responseList id dir with
    | u :: _ => s.answerHead dir u
    | [] => s) s

/-- ABSORBED_RESPONSE: a response for an ID that no access holds is not passed on and nothing is counted (R6). -/
def execAbsorbedResponse (_dir : Dir) (_id : DownId) (s : State) : Host.Outcome State Fault Refusal :=
  whileRunning (fun s => s) s

/-- LATE_RESPONSE: a response for a timed-out own access is absorbed; its ID is freed, LATE_RESPONSES counted, a
LATE_RESPONSE record enqueued, and what the ID held back is handed over (R159). -/
def execLateResponse (dir : Dir) (id : DownId) (codes : List Code) (s : State) : Host.Outcome State Fault Refusal :=
  whileRunning (fun s =>
    match s.timedOutOwn dir id with
    | some a =>
      let t := (s.freeId dir id).countGlobal .lateResponses
      (t.fault .lateResponse (domain := some a.domain) (address := some a.addr) (position := a.position)
        (code := some (lateCode codes))).releaseHeld
    | none => s) s

end Sys2Proof.Machine
end

