-- ==== Sys2Proof/Machine/Capture.lean ====
section
/-! DEFINITION. The commands of the capture engine and the sweep engine: CAPTURE_READ_ISSUE, OLD_LINE_READ_RESPONSE,
RECORD_WRITE_ISSUE, RECORD_WRITE_RESPONSE and SWEEP_VISIT (chapters 3 and 4). -/

namespace Sys2Proof.Machine

/-- CAPTURE_READ_ISSUE: a slot's deferred old-line read is handed over, if it waits and may go (R53). -/
def execCaptureReadIssue (k : SlotId) (s : State) : Host.Outcome State Fault Refusal :=
  whileRunning (fun s => s.handCaptureRead k) s

/-- The answer to the old-line read of a slot in READ_OLD: OKAY on all eight beats takes the slot to WRITE_RECORD, and any
other code fails the capture (R44, R54, R55). -/
def State.oldLineAnswered (s : State) (k : SlotId) (id : DownId) (beats : List Beat) : State :=
  if (s.slot k).state = .readOld then
    if allOkay beats then (s.freeId .read id).oldLineRead k (responseBytes beats)
    else (s.freeId .read id).captureFails k .captureFailed
  else s

/-- OLD_LINE_READ_RESPONSE: the old-line read that holds a downstream ID is answered (R54, R55). -/
def execOldLineReadResponse (id : DownId) (beats : Vector Beat 8) (s : State) : Host.Outcome State Fault Refusal :=
  whileRunning (fun s =>
    match s.pendingOwn .read id with
    | some a =>
      match a.owner with
      | .captureRead k => s.oldLineAnswered k id beats.toList
      | _ => s
    | none => s) s

/-- RECORD_WRITE_ISSUE: a slot's held record write is handed over, if it may go (R57). -/
def execRecordWriteIssue (k : SlotId) (s : State) : Host.Outcome State Fault Refusal :=
  whileRunning (fun s => s.handRecordWrite k) s

/-- The answer to the record write of a slot in WRITE_RECORD: OKAY makes the record durable, and any other code fails the
capture (R44, R57, R59). -/
def State.recordAnswered (s : State) (k : SlotId) (id : DownId) (code : Code) : State :=
  if (s.slot k).state = .writeRecord then
    if code = .okay then (s.freeId .write id).recordDurable k else (s.freeId .write id).captureFails k .recordFailed
  else s

/-- RECORD_WRITE_RESPONSE: the record write that holds a downstream ID is answered (R57, R59). -/
def execRecordWriteResponse (id : DownId) (code : Code) (s : State) : Host.Outcome State Fault Refusal :=
  whileRunning (fun s =>
    match s.pendingOwn .write id with
    | some a =>
      match a.owner with
      | .recordWrite k => s.recordAnswered k id code
      | _ => s
    | none => s) s

/-- A visit of a running sweep: the set is visited, and either the sweep goes on with its next set and one visit fewer, or,
at its last visit, it completes: sweep pending becomes 0, what it held back is handed over, and the domain at the head of
the queue starts (R79, R80, R82). -/
def State.sweepStep (s : State) (r : RunningSweep) : State :=
  let t := s.visitSet r.domain r.next
  if 1 < r.left then
    { t with sweep := { t.sweep with running := some { r with next := r.next + 1, left := r.left - 1 } } }
  else
    let done := State.releaseHeld { t with sweep := { t.sweep with running := none } }
    { done with sweep := nextSweep done.sweep }

/-- SWEEP_VISIT: the running sweep, if there is one, makes a visit (R79, R80). -/
def execSweepVisit (s : State) : Host.Outcome State Fault Refusal :=
  whileRunning (fun s =>
    match s.sweep.running with
    | some r => s.sweepStep r
    | none => s) s

end Sys2Proof.Machine
end

