-- ==== Sys2Proof/Machine/Frame.lean ====
section
/-! DEFINITION. The frame engine (sections 10.1 to 10.4): the frame commands FRAME_START, FRAME_END, CRC_MISMATCH,
UNKNOWN_OPCODE, REPLY_COMPLETE, CUT_REPLY, SHORT_FRAME and LONG_FRAME, and the shared operation that answers a request. -/

namespace Sys2Proof.Machine

/-- What the port drives on MISO: high impedance, or a byte (R161). -/
inductive Miso where
  | released
  | drives (b : Byte)
deriving DecidableEq, Repr

/-- MISO: released while CS_N is high or no frame is in progress; 0xFF in REQUEST, the reply byte at the index in REPLY, 0x00
in TRAIL (R161, R174). -/
def State.miso (s : State) : Miso :=
  if s.pins.csN then .released
  else
    match s.frame.state with
    | .idle => .released
    | .request => .drives 0xFF#8
    | .reply => .drives (s.frame.reply.getD s.frame.index 0x00#8)
    | .trail => .drives 0x00#8

/-- A request judged and answered: the request buffer holds its bytes, the reply is formed and the engine enters REPLY
(R161, R163, R164). -/
def State.answer (s : State) (request : List Byte) (reply : List Byte) : State :=
  { s with frame := { s.frame with
      state := .reply
      request := request
      expected := some request.length
      reply := reply
      index := 0 } }

/-- The answer to a known opcode (R163, case 3; R164). -/
def State.reply (s : State) (opcode : Byte) (args : List Byte) (status : Status) (data : List Byte) : State :=
  s.answer (requestBytes opcode args) (replyBytes opcode status data)

/-- A request takes effect only in REQUEST (SCK is ignored in IDLE, and MOSI in REPLY and TRAIL), and only if the request
buffer holds the first of its bytes; the bytes still missing, its CRC byte among them, complete with the command (R161;
notes/assumptions/15.md). -/
def inRequest (bytes : List Byte) (f : State → State) (s : State) : Host.Outcome State Fault Refusal :=
  whileRunning (fun s => if decide (s.frame.state = .request) && s.frame.request.isPrefixOf bytes then f s else s) s

/-- The level of CS_N changed. -/
def State.setCsN (s : State) (level : Bool) : State := { s with pins := { s.pins with csN := level } }

/-- The frame engine returns to IDLE as CS_N rises: its buffers are emptied and its latch discarded (R161, R173). -/
def State.endFrame (s : State) : State := { s.setCsN true with frame := FrameEngine.reset }

/-- Whether the byte that completes next is one of those that change the frame engine alone: in REQUEST any but the request
CRC byte, which is the byte at the expected length, and in REPLY any but the last of the reply (R161, R162). -/
def FrameEngine.midway (f : FrameEngine) : Bool :=
  match f.state with
  | .request => decide (f.expected ≠ some (f.request.length + 1))
  | .reply => decide (f.index + 1 < f.reply.length)
  | .idle | .trail => false

/-- The completion of such a byte: in REQUEST it joins the request buffer, and the opcode byte, the first of the frame, fixes
the expected request length; in REPLY the reply index advances (R161, R162). -/
def FrameEngine.takeByte (f : FrameEngine) (b : Byte) : FrameEngine :=
  match f.state, f.request with
  | .request, [] => { f with request := [b], expected := some (expectedLength b) }
  | .request, received => { f with request := received ++ [b] }
  | .reply, _ => { f with index := f.index + 1 }
  | .idle, _ | .trail, _ => f

/-- The part of an idle step at the management port: the byte that the SPI host clocks on it completes, if it clocks one. The
request CRC byte and the reply CRC byte complete with the commands that judge the request and complete the reply, never here
(R161; notes/assumptions/15.md). -/
def State.clockByte (s : State) : State :=
  match s.pins.clocking with
  | b :: rest =>
    if !s.inReset && s.frame.midway then
      { s with
        pins := { s.pins with clocking := rest }
        frame := (b.map s.frame.takeByte).getD s.frame }
    else s
  | [] => s

/-- FRAME_START: CS_N falls; in IDLE, out of reset, a frame begins (R161, R174). -/
def execFrameStart (s : State) : Host.Outcome State Fault Refusal :=
  .next (
    if s.pins.csN then
      if s.inReset then s.setCsN false
      else { s.setCsN false with frame := { FrameEngine.reset with state := .request } }
    else s)

/-- FRAME_END: CS_N rises in TRAIL and the engine returns to IDLE; a rise in IDLE has no effect but the level (R161). -/
def execFrameEnd (s : State) : Host.Outcome State Fault Refusal :=
  .next (
    if s.pins.csN then s
    else
      match s.frame.state with
      | .idle | .trail => s.endFrame
      | .request | .reply => s)

/-- CRC_MISMATCH: a request of the length its opcode fixes, whose last byte is not the CRC-8 of the others, takes no effect
and is answered with status CRC (R162, R163). -/
def execCrcMismatch (bytes : List Byte) (s : State) : Host.Outcome State Fault Refusal :=
  inRequest bytes (fun s =>
    let opcode := bytes.headD 0x00#8
    if decide (bytes.length = expectedLength opcode) && decide (crc8 bytes.dropLast ≠ bytes.getLastD 0x00#8) then
      s.answer bytes (replyBytes opcode .crc [])
    else s) s

/-- UNKNOWN_OPCODE: a request of an opcode that is none of the twelve is answered with status OPCODE (R162, R163). -/
def execUnknownOpcode (opcode : Byte) (s : State) : Host.Outcome State Fault Refusal :=
  inRequest (requestBytes opcode []) (fun s =>
    match argumentCount opcode with
    | none => s.reply opcode [] .opcode []
    | some _ => s) s

/-- The subtraction that ends a subtracting GET_COUNTER: the latched value is taken from the selected counter, under its
domain's mode or under WRAP for a global counter; no flag is raised (R142, R145). -/
def State.subtractCounter (s : State) (value : Count) : CounterSel → State
  | .domain d i =>
    s.updDom d fun x =>
      { x with counters := x.counters.set i (subtracted x.config.counterMode x.counters[i] value) }
  | .global i => { s with globals := s.globals.set i (subtracted .wrap s.globals[i] value) }

/-- The reply-completion effect of the frame's request (R165): the subtraction of R145, or the removal of the record at the
head of the fault queue (R152). -/
def State.completeReply (s : State) : State :=
  match s.frame.latch with
  | .counter sel value true => s.subtractCounter value sel
  | .counter _ _ false => s
  | .fault _ => { s with faults := { s.faults with queue := s.faults.queue.tail } }
  | .empty => s

/-- REPLY_COMPLETE: the reply CRC byte is shifted out with CS_N low; the reply-completion effects are made and the engine
enters TRAIL (R165). -/
def execReplyComplete (s : State) : Host.Outcome State Fault Refusal :=
  whileRunning (fun s =>
    match s.frame.state with
    | .reply =>
      let t := s.completeReply
      { t with frame := { t.frame with state := .trail, index := t.frame.reply.length } }
    | .idle | .request | .trail => s) s

/-- CUT_REPLY: CS_N rises in REPLY; the latch is discarded without its reply-completion effects and nothing is counted
(R165). -/
def execCutReply (s : State) : Host.Outcome State Fault Refusal :=
  whileRunning (fun s => if s.frame.state = .reply then s.endFrame else s) s

/-- SHORT_FRAME: CS_N rises in REQUEST; nothing takes effect, MGMT_ERRORS is counted and MGMT_ERR raised (R166). -/
def execShortFrame (s : State) : Host.Outcome State Fault Refusal :=
  whileRunning (fun s =>
    if s.frame.state = .request then (s.countGlobal .mgmtErrors).endFrame.raise .mgmtErr else s) s

/-- LONG_FRAME: a bit is clocked in TRAIL; the first of a frame is counted in MGMT_ERRORS and raises MGMT_ERR (R167). -/
def execLongFrame (s : State) : Host.Outcome State Fault Refusal :=
  whileRunning (fun s =>
    if decide (s.frame.state = .trail) && !s.frame.ranLong then
      State.raise (State.countGlobal { s with frame := { s.frame with ranLong := true } } .mgmtErrors) .mgmtErr
    else s) s

end Sys2Proof.Machine
end

