-- ==== Sys2Proof/Machine/Operations.lean ====
section
/-! DEFINITION. The domain operations and their anchors: DOMAIN_OP with FORMAT, RECOVER, COMMIT, ROLLBACK, CLOSE or another
code, the ISSUE commands of anchor writes and the responses to them (chapters 2, 6 and 7). -/

namespace Sys2Proof.Machine

/-- Whether a state is transient: an operation is in progress (section 2.3). -/
def transient : DomState → Bool
  | .formatting | .recovering | .draining | .committing | .rolling => true
  | .off | .openState | .broken => false

/-- Whether an operation is allowed in a settled state (R25, table). -/
def allowedIn : DomOp → DomState → Bool
  | .format, .off | .recover, .off => true
  | .commit, .openState | .commit, .broken => true
  | .rollback, .openState => true
  | .close, .openState | .close, .broken => true
  | _, _ => false

/-- Whether an operation writes the anchor of the domain's epoch + 1, and so needs an epoch below the last (R25, R26). -/
def needsNextEpoch : DomOp → Bool
  | .commit | .rollback => true
  | .format | .recover | .close => false

/-- Whether an operation takes a domain out of OFF (R25, check 4). -/
def leavesOff : DomOp → Bool
  | .format | .recover => true
  | .commit | .rollback | .close => false

/-- The overlap check of a FORMAT or RECOVER (R27). -/
def State.overlapPasses (s : State) (d : DomId) : Bool :=
  let c := (s.dom d).config
  let others := allDoms.filter fun o => decide (o ≠ d) && decide ((s.dom o).state ≠ .off)
  let journals := allRegions.filter fun i => s.regions[i].valid && decide (s.regions[i].mode = .journal)
  (journals.all fun i => !regionMeetsAreas s.regions[i] c) &&
    (journals.all fun i =>
      !decide (s.regions[i].domain = d) || others.all fun o => !regionMeetsAreas s.regions[i] (s.dom o).config) &&
    others.all fun o => !areasOverlap c (s.dom o).config

/-- The status of a DOMAIN_OP for a domain (R25, checks 2 to 4). -/
def State.opStatus (s : State) (d : DomId) (op : DomOp) : Status :=
  let x := s.dom d
  if transient x.state then .busy
  else if !allowedIn op x.state || (needsNextEpoch op && decide (x.epoch = lastEpoch)) then .state
  else if leavesOff op && (decide (x.config.capacity = 0) || !s.overlapPasses d) then .arg
  else .ok

/-- The domain that an argument byte names: 0 to 3, or none (R25, R178). -/
def domainOf (b : Byte) : Option DomId := if h : b.toNat < 4 then some ⟨b.toNat, h⟩ else none

/-- The opcode of DOMAIN_OP (section 11.4). -/
def domainOpcode : Byte := 0x0A#8

/-- The argument bytes of a domain operation's request (R178). -/
def operationArgs (domain : Byte) (op : DomOp) : List Byte := [domain, BitVec.ofNat 8 (opCode op)]

/-- The bytes of a domain operation's request (R162, R178). -/
def operationRequest (domain : Byte) (op : DomOp) : List Byte := requestBytes domainOpcode (operationArgs domain op)

/-- A DOMAIN_OP taking effect: its checks decide the reply, and an accepted operation sets last operation and last result
and starts; a refused one changes nothing but the reply (R25, R28, R172). -/
def State.domainOp (s : State) (domain : Byte) (op : DomOp) (start : State → DomId → State) : State :=
  let args := operationArgs domain op
  match domainOf domain with
  | none => s.reply domainOpcode args .arg []
  | some d =>
    match s.opStatus d op with
    | .ok =>
      (start (s.updDom d fun x => { x with lastOp := some op, lastResult := .ok }) d).reply domainOpcode args .ok []
    | st => s.reply domainOpcode args st []

/-- A held write refused because it meets the areas of a domain leaving OFF (R13, R94). -/
def State.guardEntry (d : DomId) (s : State) (e : Entry) : State :=
  ((s.refuseEntry e).countGlobal .guardRefused).fault .guardWrite (domain := some d)
    (initiator := some e.req.header.id) (address := some e.req.header.addr)

/-- A domain leaves OFF: its areas are guarded from now on, held writes that meet them are refused in arrival order, and the
ORDER waiters behind those are re-evaluated (R13, R91). -/
def State.leaveOff (s : State) (d : DomId) (st : DomState) : State :=
  let t := s.updDom d fun x => { x with state := st }
  let met := t.hold.filter fun e => decide (e.req.kind = .write) && meetsAreas e.req.header (t.dom d).config
  let refused := met.foldl (State.guardEntry d) t
  refused.reevaluate (refused.waitersBehind met)

/-- FORMAT begins: FORMATTING, and the slot 1 anchor write of epoch 1 prepared (R29). -/
def State.startFormat (s : State) (d : DomId) : State := (s.leaveOff d .formatting).prepareAnchor d 1#32 .ok

/-- RECOVER begins: RECOVERING, and the replay engine claimed (R41, R131). -/
def State.startRecover (s : State) (d : DomId) : State := (s.leaveOff d .recovering).claimEngine d

/-- FORMAT (R25, R29). -/
def execFormat (domain : Byte) (s : State) : Host.Outcome State Fault Refusal :=
  inRequest (operationRequest domain .format) (fun s => s.domainOp domain .format State.startFormat) s

/-- RECOVER (R25, R41). -/
def execRecover (domain : Byte) (s : State) : Host.Outcome State Fault Refusal :=
  inRequest (operationRequest domain .recover) (fun s => s.domainOp domain .recover State.startRecover) s

/-- COMMIT (R25, R32, R105). -/
def execCommit (domain : Byte) (s : State) : Host.Outcome State Fault Refusal :=
  inRequest (operationRequest domain .commit)
    (fun s => s.domainOp domain .commit fun t d => (t.startDrain d .commit).endDrainIfDone d) s

/-- ROLLBACK (R25, R32, R126). -/
def execRollback (domain : Byte) (s : State) : Host.Outcome State Fault Refusal :=
  inRequest (operationRequest domain .rollback)
    (fun s => s.domainOp domain .rollback fun t d => (t.startDrain d .rollback).endDrainIfDone d) s

/-- CLOSE (R25, R32, R33). -/
def execClose (domain : Byte) (s : State) : Host.Outcome State Fault Refusal :=
  inRequest (operationRequest domain .close)
    (fun s => s.domainOp domain .close fun t d => (t.startDrain d .close).endDrainIfDone d) s

/-- DOMAIN_OP with an operation code that is none of the five: ARG, with nothing changed (R25, check 1). -/
def execDomainOp (domain operation : Byte) (s : State) : Host.Outcome State Fault Refusal :=
  inRequest (requestBytes domainOpcode [domain, operation]) (fun s =>
    if decide (operation = 0) || decide (5 < operation.toNat) then s.reply domainOpcode [domain, operation] .arg []
    else s) s

/-! ### Anchor writes -/

/-- FORMAT_SLOT1_ISSUE: FORMAT's held slot 1 write is handed over, if it may go (R29, R82). -/
def execFormatSlot1Issue (d : DomId) (s : State) : Host.Outcome State Fault Refusal :=
  whileRunning (fun s => if (s.dom d).state = .formatting then s.handAnchorWrite d else s) s

/-- ANCHOR_WRITE_ISSUE: a held anchor write of COMMIT, ROLLBACK or RECOVER is handed over, if it may go (R82, R110). -/
def execAnchorWriteIssue (d : DomId) (s : State) : Host.Outcome State Fault Refusal :=
  whileRunning (fun s => if (s.dom d).state = .formatting then s else s.handAnchorWrite d) s

/-- The answer to an anchor or invalidating write of one use: its ID is freed, and OKAY or failure is taken by the operation's
rule (R30, R31, R112, R114, R128, R129, R134). -/
def State.anchorAnswered (s : State) (id : DownId) (code : Code) (use : AnchorUse) (succeed : State → DomId → State) :
    State :=
  match s.pendingOwn .write id with
  | some a =>
    if a.owner = .anchorWrite use then
      if code = .okay then succeed (s.freeId .write id) a.domain
      else (s.freeId .write id).anchorFails a.domain use a.addr
    else s
  | none => s

/-- FORMAT_SLOT1_RESPONSE (R30). -/
def execFormatSlot1Response (id : DownId) (code : Code) (s : State) : Host.Outcome State Fault Refusal :=
  whileRunning (fun s => s.anchorAnswered id code .formatSlot1 State.formatSlot1Succeeds) s

/-- FORMAT_INVALIDATE_RESPONSE (R31). -/
def execFormatInvalidateResponse (id : DownId) (code : Code) (s : State) : Host.Outcome State Fault Refusal :=
  whileRunning (fun s => s.anchorAnswered id code .formatInvalidate State.formatSucceeds) s

/-- COMMIT_ANCHOR_RESPONSE (R112, R114). -/
def execCommitAnchorResponse (id : DownId) (code : Code) (s : State) : Host.Outcome State Fault Refusal :=
  whileRunning (fun s => s.anchorAnswered id code .commit State.commitSucceeds) s

/-- ROLLBACK_ANCHOR_RESPONSE (R128, R129). -/
def execRollbackAnchorResponse (id : DownId) (code : Code) (s : State) : Host.Outcome State Fault Refusal :=
  whileRunning (fun s => s.anchorAnswered id code .rollback State.rollbackSucceeds) s

/-- RECOVER_ANCHOR_RESPONSE (R134). -/
def execRecoverAnchorResponse (id : DownId) (code : Code) (s : State) : Host.Outcome State Fault Refusal :=
  whileRunning (fun s => s.anchorAnswered id code .recover State.recoverSucceeds) s

end Sys2Proof.Machine
end

