-- ==== Sys2Proof/Machine/Requests.lean ====
section
/-! DEFINITION. The requests of the management port other than DOMAIN_OP: IDENT, GET_STATUS, SET_MASK, CLEAR_EVENTS,
SET_TIMING, SET_REGION, GET_REGION, SET_DOMAIN, GET_DOMAIN, GET_COUNTER and TAKE_FAULT (section 10.5, chapter 11). -/

namespace Sys2Proof.Machine

/-- IDENT: the part code and the revision (R168, R179). -/
def execIdent (s : State) : Host.Outcome State Fault Refusal :=
  inRequest (requestBytes 0x01#8 [])
    (fun s => s.reply 0x01#8 [] .ok (beBytes 2 Config.partCode ++ leBytes 1 Config.revision)) s

/-- The status snapshot of GET_STATUS (R168, R179). -/
def State.statusBytes (s : State) : List Byte :=
  beBytes 3 s.faults.flags.toNat ++ beBytes 3 s.faults.mask.toNat ++ leBytes 1 s.hold.length ++
    leBytes 1 s.faults.queue.length ++ leBytes 1 s.faults.lost ++ beBytes 4 s.time.tick.toNat

/-- GET_STATUS (R168). -/
def execGetStatus (s : State) : Host.Outcome State Fault Refusal :=
  inRequest (requestBytes 0x02#8 []) (fun s => s.reply 0x02#8 [] .ok s.statusBytes) s

/-- Whether a 24-bit set has no bit outside the nineteen flags (R169). -/
def inFlags (bits : BitVec 24) : Bool := decide (bits.toNat < 2 ^ 19)

/-- The mask replaced (R154). -/
def State.setEventMask (s : State) (m : BitVec 19) : State := { s with faults := { s.faults with mask := m } }

/-- SET_MASK (R169). -/
def execSetMask (bits : BitVec 24) (s : State) : Host.Outcome State Fault Refusal :=
  let args := beBytes 3 bits.toNat
  inRequest (requestBytes 0x03#8 args) (fun s =>
    if inFlags bits then (s.setEventMask (bits.setWidth 19)).reply 0x03#8 args .ok []
    else s.reply 0x03#8 args .arg []) s

/-- The flags of a set cleared, and with FAULT_LOST the lost count (R155). -/
def State.clearFlags (s : State) (set : BitVec 19) : State :=
  { s with faults := { s.faults with
      flags := s.faults.flags &&& ~~~set
      lost := if set.getLsbD (eventIndex .faultLost) then 0 else s.faults.lost } }

/-- CLEAR_EVENTS (R155, R169). -/
def execClearEvents (bits : BitVec 24) (s : State) : Host.Outcome State Fault Refusal :=
  let args := beBytes 3 bits.toNat
  inRequest (requestBytes 0x04#8 args) (fun s =>
    if inFlags bits then (s.clearFlags (bits.setWidth 19)).reply 0x04#8 args .ok []
    else s.reply 0x04#8 args .arg []) s

/-- The status of a SET_TIMING: its ranges, then its domains (R170). -/
def State.timingStatus (s : State) (tickDiv memTimeout : BitVec 16) : Status :=
  if decide (tickDiv = 0) || decide (1024 < tickDiv.toNat) || decide (4095 < memTimeout.toNat) then .arg
  else if allDoms.any fun d => decide ((s.dom d).state ≠ .off) then .state
  else .ok

/-- New timing settings; the divider count returns to 0 and the tick counter is kept (R156, R170). -/
def State.setTimes (s : State) (tickDiv holdTimeout memTimeout : Nat) : State :=
  { s with time := { s.time with
      tickDiv := tickDiv, divCount := 0, holdTimeout := holdTimeout, memTimeout := memTimeout } }

/-- SET_TIMING (R170). -/
def execSetTiming (tickDiv holdTimeout memTimeout : BitVec 16) (s : State) : Host.Outcome State Fault Refusal :=
  let args := beBytes 2 tickDiv.toNat ++ beBytes 2 holdTimeout.toNat ++ beBytes 2 memTimeout.toNat
  inRequest (requestBytes 0x05#8 args) (fun s =>
    match s.timingStatus tickDiv memTimeout with
    | .ok => (s.setTimes tickDiv.toNat holdTimeout.toNat memTimeout.toNat).reply 0x05#8 args .ok []
    | st => s.reply 0x05#8 args st []) s

/-- The region that the arguments of a SET_REGION describe, or none where they fail R10's argument checks; with valid 0, an
entry of zeros (R10, R178). -/
def regionOf (flags : Byte) (base : Addr) (pages : BitVec 32) : Option Region :=
  if flags.getLsbD 0 then
    match modeOfCode (flags.toNat / 2 % 4) with
    | none => none
    | some m =>
      if decide (base.toNat % Config.pageBytes = 0) && decide (1 ≤ pages.toNat) && decide (pages.toNat ≤ 2 ^ 28) &&
          decide (base.toNat + pages.toNat * Config.pageBytes ≤ Config.addressSpace) then
        some { valid := true, base := base, pages := pages.toNat, mode := m, domain := Fin.ofNat 4 (flags.toNat / 16 % 4) }
      else none
  else some Region.reset

/-- Whether a region ties no domain in use: it is invalid, or not JOURNAL, or of a domain in OFF (R10). -/
def State.regionFree (s : State) (r : Region) : Bool :=
  !r.valid || decide (r.mode ≠ .journal) || decide ((s.dom r.domain).state = .off)

/-- A region table entry replaced. -/
def State.setRegion (s : State) (i : Fin 16) (r : Region) : State := { s with regions := s.regions.set i r }

/-- The region table entry that an argument byte names: 0 to 15, or none (R10, R178). -/
def entryOf (b : Byte) : Option (Fin 16) := if h : b.toNat < 16 then some ⟨b.toNat, h⟩ else none

/-- SET_REGION: the argument checks, then the two state checks (R10). -/
def execSetRegion (entry flags : Byte) (base : Addr) (pages : BitVec 32) (s : State) :
    Host.Outcome State Fault Refusal :=
  let args := [entry, flags] ++ beBytes 5 base.toNat ++ beBytes 4 pages.toNat
  inRequest (requestBytes 0x06#8 args) (fun s =>
    match entryOf entry, regionOf flags base pages with
    | some i, some r =>
      if s.regionFree s.regions[i] && s.regionFree r then (s.setRegion i r).reply 0x06#8 args .ok []
      else s.reply 0x06#8 args .state []
    | _, _ => s.reply 0x06#8 args .arg []) s

/-- GET_REGION (R10, R179). -/
def execGetRegion (entry : Byte) (s : State) : Host.Outcome State Fault Refusal :=
  inRequest (requestBytes 0x07#8 [entry]) (fun s =>
    match entryOf entry with
    | some i => s.reply 0x07#8 [entry] .ok (regionBytes s.regions[i])
    | none => s.reply 0x07#8 [entry] .arg []) s

/-- The configuration that the arguments of a SET_DOMAIN describe, or none where they fail the first check of R23. -/
def configOf (journalBase : Addr) (capacity : BitVec 32) (anchorBase : Addr) (flags : Byte) (highMark : BitVec 32) :
    Option DomainConfig :=
  match policyOfCode (flags.toNat % 4) with
  | none => none
  | some p =>
    let c : DomainConfig :=
      { journalBase := journalBase, capacity := capacity.toNat, anchorBase := anchorBase, policy := p,
        highMark := highMark.toNat, counterMode := if flags.getLsbD 2 then .saturate else .wrap,
        halfEnable := flags.getLsbD 3 }
    if decide (journalBase.toNat % Config.pageBytes = 0) && decide (16 ≤ c.capacity) && decide (c.capacity ≤ 65536) &&
        decide (anchorBase.toNat % 128 = 0) && decide (1 ≤ c.highMark) && decide (c.highMark ≤ c.capacity) &&
        decide ((journalArea c).2 ≤ Config.addressSpace) && decide ((anchorSpan c).2 ≤ Config.addressSpace) &&
        !rangesMeet (anchorSpan c) (journalArea c) then
      some c
    else none

/-- Whether the areas of a new configuration of a domain meet no area of another domain that is not in OFF (R23, check 3). -/
def State.othersClear (s : State) (d : DomId) (c : DomainConfig) : Bool :=
  allDoms.all fun o => decide (o = d) || decide ((s.dom o).state = .off) || !areasOverlap c (s.dom o).config

/-- SET_DOMAIN: its three checks in order, then the seven fields together (R23). -/
def execSetDomain (domain : Byte) (journalBase : Addr) (capacity : BitVec 32) (anchorBase : Addr) (flags : Byte)
    (highMark : BitVec 32) (s : State) : Host.Outcome State Fault Refusal :=
  let args := [domain] ++ beBytes 5 journalBase.toNat ++ beBytes 4 capacity.toNat ++ beBytes 5 anchorBase.toNat ++
    [flags] ++ beBytes 4 highMark.toNat
  inRequest (requestBytes 0x08#8 args) (fun s =>
    match domainOf domain, configOf journalBase capacity anchorBase flags highMark with
    | some d, some c =>
      if (s.dom d).state ≠ .off then s.reply 0x08#8 args .state []
      else if s.othersClear d c then (s.updDom d fun x => { x with config := c }).reply 0x08#8 args .ok []
      else s.reply 0x08#8 args .arg []
    | _, _ => s.reply 0x08#8 args .arg []) s

/-- The half-point bits of a domain's twelve counters as a number, bit `i` of counter index `i` (R142, R179). -/
def halfPoints (x : Domain) : Nat :=
  ((x.counters.toList.zipIdx).map fun p => bitNat (halfPoint p.1) * 2 ^ p.2).sum

/-- The record of a domain as GET_DOMAIN reports it (R171, R179). -/
def State.domainBytes (s : State) (d : DomId) : List Byte :=
  let x := s.dom d
  configBytes x.config ++ leBytes 1 (stateCode x.state) ++ beBytes 4 x.epoch.toNat ++ beBytes 4 x.occupancy ++
    leBytes 1 (pendingCode x.pending) ++ leBytes 1 (lastOpCode x.lastOp) ++ leBytes 1 (resultCode x.lastResult) ++
    leBytes 1 (bitNat x.pressure + 2 * bitNat x.brokenMark + 4 * bitNat (s.sweepPending d)) ++
    leBytes 1 x.slotsInUse ++ beBytes 2 (halfPoints x)

/-- GET_DOMAIN (R171). -/
def execGetDomain (domain : Byte) (s : State) : Host.Outcome State Fault Refusal :=
  inRequest (requestBytes 0x09#8 [domain]) (fun s =>
    match domainOf domain with
    | some d => s.reply 0x09#8 [domain] .ok (s.domainBytes d)
    | none => s.reply 0x09#8 [domain] .arg []) s

/-- The counter that a selector byte names: domain or 0xF in bits 7 to 4, index in bits 3 to 0 (R143, R178). -/
def selectorOf (b : Byte) : Option CounterSel :=
  let high := b.toNat / 16
  let low := b.toNat % 16
  if hd : high < 4 then
    if hi : low < 12 then some (.domain ⟨high, hd⟩ ⟨low, hi⟩) else none
  else if high = 15 then
    if hg : low < 4 then some (.global ⟨low, hg⟩) else none
  else none

/-- The subtract flag that a byte names: 0 or 1 (R143, R178). -/
def subtractOf (b : Byte) : Option Bool := if b = 0#8 then some false else if b = 1#8 then some true else none

/-- The live value of a selected counter (R138). -/
def State.counterValue (s : State) : CounterSel → Count
  | .domain d i => (s.dom d).counters[i]
  | .global i => s.globals[i]

/-- What the frame's latch holds replaced. -/
def State.setLatch (s : State) (l : Latch) : State := { s with frame := { s.frame with latch := l } }

/-- GET_COUNTER: the selected counter's value is latched and answered (R143, R144). -/
def execGetCounter (selector subtract : Byte) (s : State) : Host.Outcome State Fault Refusal :=
  inRequest (requestBytes 0x0B#8 [selector, subtract]) (fun s =>
    match selectorOf selector, subtractOf subtract with
    | some sel, some sub =>
      (s.setLatch (.counter sel (s.counterValue sel) sub)).reply 0x0B#8 [selector, subtract] .ok
        (beBytes 4 (s.counterValue sel).toNat)
    | _, _ => s.reply 0x0B#8 [selector, subtract] .arg []) s

/-- TAKE_FAULT: the oldest fault record is latched and answered, or kind NONE (R152). -/
def execTakeFault (s : State) : Host.Outcome State Fault Refusal :=
  inRequest (requestBytes 0x0C#8 []) (fun s =>
    match s.faults.queue with
    | r :: _ => (s.setLatch (.fault r)).reply 0x0C#8 [] .ok (faultBytes r)
    | [] => s.reply 0x0C#8 [] .ok noFaultBytes) s

end Sys2Proof.Machine
end

