-- ==== Sys2Proof/Machine/Walks.lean ====
section
/-! DEFINITION. The commands of the replay engine: ANCHOR_READ_ISSUE, ANCHOR_READ_RESPONSE, RECORD_READ_RESPONSE,
REPLAY_WRITE_ISSUE and REPLAY_WRITE_RESPONSE (chapter 7). -/

namespace Sys2Proof.Machine

/-- The 64 bytes of an anchor line read with OKAY on every beat, or none (R132). -/
def anchorOutcome (beats : List Beat) : Option (List Byte) :=
  if allOkay beats then some (responseBytes beats) else none

/-- A walk's record read ended: no read is outstanding. -/
def readEnded (w : Walk) : Walk := { w with readOut := none }

/-- A walk's replay write ended: no write is outstanding. -/
def writeEnded (w : Walk) : Walk := { w with writeOut := none }

/-- A record read answered: OKAY on all sixteen beats is judged, and any other code is a read failure; the walk goes on
(R121, R124). -/
def State.recordReadAnswered (s : State) (w : Walk) (position : Nat) (beats : List Beat) : State :=
  if allOkay beats then
    ((s.setWalk (some (readEnded w))).judgeRecord (readEnded w) position (responseBytes beats)).advanceWalk
  else (s.recordReadFails (readEnded w) position).advanceWalk

/-- A replay write answered: OKAY counts REPLAYED, and any other code is a failure; the walk goes on (R123, R124). -/
def State.replayWriteAnswered (s : State) (w : Walk) (a : OwnAccess) (code : Code) : State :=
  if code = .okay then ((s.setWalk (some (writeEnded w))).count w.domain .replayed 1).advanceWalk
  else (s.replayWriteFails (writeEnded w) (a.position.getD 0) a.addr).advanceWalk

/-- ANCHOR_READ_ISSUE: RECOVER's first anchor read is handed over, if it waits and may go (R131). -/
def execAnchorReadIssue (s : State) : Host.Outcome State Fault Refusal := whileRunning (fun s => s.handAnchorRead) s

/-- ANCHOR_READ_RESPONSE: an anchor read is answered (R131, R132). -/
def execAnchorReadResponse (id : DownId) (beats : Vector Beat 8) (s : State) : Host.Outcome State Fault Refusal :=
  whileRunning (fun s =>
    match s.pendingOwn .read id, s.replay.walk with
    | some a, some w =>
      match a.owner with
      | .anchorRead _ => (s.freeId .read id).anchorReadEnds w (anchorOutcome beats.toList)
      | _ => s
    | _, _ => s) s

/-- RECORD_READ_RESPONSE: a walk's record read is answered (R121, R122, R124). -/
def execRecordReadResponse (id : DownId) (beats : Vector Beat 16) (s : State) : Host.Outcome State Fault Refusal :=
  whileRunning (fun s =>
    match s.pendingOwn .read id, s.replay.walk with
    | some a, some w =>
      if a.owner = .recordRead then (s.freeId .read id).recordReadAnswered w (a.position.getD 0) beats.toList else s
    | _, _ => s) s

/-- REPLAY_WRITE_ISSUE: the buffered replay write is handed over, if it may go, and the next record read issued (R121,
R123). -/
def execReplayWriteIssue (s : State) : Host.Outcome State Fault Refusal :=
  whileRunning (fun s => s.handReplayWrite.issueRecordRead) s

/-- REPLAY_WRITE_RESPONSE: a replay write is answered (R123, R124). -/
def execReplayWriteResponse (id : DownId) (code : Code) (s : State) : Host.Outcome State Fault Refusal :=
  whileRunning (fun s =>
    match s.pendingOwn .write id, s.replay.walk with
    | some a, some w =>
      if a.owner = .replayWrite then (s.freeId .write id).replayWriteAnswered w a code else s
    | _, _ => s) s

end Sys2Proof.Machine
end

