-- ==== Sys2Proof/Machine/Time.lean ====
section
/-! DEFINITION. The timebase and the two timeouts: TICK, HOLD_TIMEOUT and MEM_TIMEOUT, and the bus clock of an idle step
(R96, R156, R158). -/

namespace Sys2Proof.Machine

/-- Whether some held entry is due at the present tick (R96). -/
def State.holdDue (s : State) : Bool := s.hold.any fun e => s.due e.deadline

/-- Whether some pending access of a direction is due: in the own list, or issued and not timed out (R158). -/
def State.sideDue (s : State) (m : MemSide) : Bool :=
  (m.own.any fun a => s.due a.deadline) || m.issuedOwn.any fun i => !i.timedOut && s.due i.access.deadline

/-- Whether some pending own access is due at the present tick, handed over or held back in a slot or in the record buffer
(R157, R158). -/
def State.memDue (s : State) : Bool :=
  s.sideDue s.mem.reads || s.sideDue s.mem.writes ||
    (allSlots.any fun k => decide ((s.slot k).state ≠ .free) && s.due (s.slot k).deadline) ||
    (match s.replay.walk.bind (·.buffer) with
      | some b => s.due b.deadline
      | none => false)

/-- The advance of the tick counter: the divider count returns to 0 (R156). -/
def State.advanceTick (s : State) : State :=
  { s with time := { s.time with divCount := 0, tick := s.time.tick + 1#32 } }

/-- Whether timeouts of the present advance are still to be taken: they belong to it, so the next one cannot come before
them (R96, R158; notes/assumptions/3.md). -/
def State.timeoutsLeft (s : State) : Bool := s.holdDue || s.memDue

/-- One bus clock, on an empty command queue: the divider count advances, or completes and the tick counter advances (R156;
notes/assumptions/2.md). -/
def State.busClock (s : State) : State :=
  if s.inReset || s.timeoutsLeft then s
  else if s.time.divCount + 1 < s.time.tickDiv then
    { s with time := { s.time with divCount := s.time.divCount + 1 } }
  else s.advanceTick

/-- TICK: the divider count completes and the tick counter advances (R156). -/
def execTick (s : State) : Host.Outcome State Fault Refusal :=
  whileRunning (fun s => if s.timeoutsLeft then s else s.advanceTick) s

/-- A held entry times out: it is refused, counted in HOLD_TIMEOUTS of its domain if it has one, recorded as a fault, and the
ORDER waiters behind it are re-evaluated (R96). -/
def State.timeOutEntry (s : State) (e : Entry) : State :=
  let t := s.refuseEntry e
  let u := match e.domain with
    | some d => t.count d .holdTimeouts 1
    | none => t
  let v := u.fault .holdTimeout (domain := e.domain) (initiator := some e.req.header.id)
    (address := some e.req.header.addr)
  v.reevaluate (v.waitersBehind [e])

/-- HOLD_TIMEOUT: the oldest held entry that is due times out (R96). -/
def execHoldTimeout (s : State) : Host.Outcome State Fault Refusal :=
  whileRunning (fun s =>
    match s.hold.find? fun e => s.due e.deadline with
    | some e => s.timeOutEntry e
    | none => s) s

/-- Whether an own access is a read of the replay engine. -/
def isWalkRead (a : OwnAccess) : Bool :=
  match a.owner with
  | .anchorRead _ | .recordRead => true
  | _ => false

/-- A capture's access times out in the slot state given: the access is withdrawn or marked, and the capture fails (R55,
R59, R158). -/
def State.timeOutCapture (s : State) (k : SlotId) (st : SlotState) (dir : Dir) (owner : Owner) (kind : FaultKind) : State :=
  if decide ((s.slot k).state = st) && s.due (s.slot k).deadline then
    (s.timeOutOwn dir fun a => decide (a.owner = owner)).captureFails k kind
  else s

/-- A domain's anchor or invalidating write times out (R30, R31, R114, R129, R134, R158). -/
def State.timeOutAnchor (s : State) (d : DomId) : State :=
  let p := fun a => isAnchorWriteOf d a && s.due a.deadline
  match s.findOwn .write p with
  | some a =>
    match a.owner with
    | .anchorWrite use => (s.timeOutOwn .write p).anchorFails d use a.addr
    | _ => s
  | none => s

/-- A walk's read times out: an anchor read or a record read has failed (R124, R132, R158). -/
def State.timeOutWalkRead (s : State) : State :=
  let p := fun a => isWalkRead a && s.due a.deadline
  match s.findOwn .read p, s.replay.walk with
  | some a, some w =>
    let t := s.timeOutOwn .read p
    if a.owner = .recordRead then (t.recordReadFails (readEnded w) (a.position.getD 0)).advanceWalk
    else t.anchorReadEnds w none
  | _, _ => s

/-- A walk's handed-over replay write times out (R124, R158). -/
def State.timeOutReplayWrite (s : State) : State :=
  let p := fun a => decide (a.owner = .replayWrite) && s.due a.deadline
  match s.findOwn .write p, s.replay.walk with
  | some a, some w =>
    ((s.timeOutOwn .write p).replayWriteFails (writeEnded w) (a.position.getD 0) a.addr).advanceWalk
  | _, _ => s

/-- A replay write still held in the record buffer times out: it is never issued (R123, R124, R158). -/
def State.timeOutBuffer (s : State) : State :=
  match s.replay.walk with
  | some w =>
    match w.buffer with
    | some b =>
      if s.due b.deadline then
        (s.replayWriteFails { w with buffer := none } b.position (lineAddr (recordLine b.record))).advanceWalk
      else s
    | none => s
  | none => s

/-- MEM_TIMEOUT: the named pending own access, if it is due, is withdrawn or marked timed out, and its owner takes the
failure (R158). -/
def execMemTimeout (ref : OwnRef) (s : State) : Host.Outcome State Fault Refusal :=
  whileRunning (fun s =>
    match ref with
    | .captureRead k => s.timeOutCapture k .readOld .read (.captureRead k) .captureFailed
    | .recordWrite k => s.timeOutCapture k .writeRecord .write (.recordWrite k) .recordFailed
    | .anchorWrite d => s.timeOutAnchor d
    | .walkRead => s.timeOutWalkRead
    | .replayWrite => s.timeOutReplayWrite
    | .replayBuffer => s.timeOutBuffer) s

end Sys2Proof.Machine
end

