-- ==== Sys2Proof/Machine/Reset.lean ====
section
/-! DEFINITION. Reset and supply: RST_N_ASSERT, RST_N_RELEASE, POWER_ON_RESET, SUPPLY_LOSS and SUPPLY_STABLE (R20, R42,
R68, R84, R103, R136, R148, R160, R174, R180). -/

namespace Sys2Proof.Machine

/-- The part with every block at its value after reset, under the given levels at its pins; the commands that wait still
wait, since they come from outside. -/
def State.resetWith (s : State) (p : Pins) : State := { State.reset with pins := p, pending := s.pending }

/-- RST_N_ASSERT: RST_N falls; every block takes its value after reset, and everything in progress is abandoned (R20, R42,
R68, R84, R103, R136, R148, R160, R174). -/
def execRstNAssert (s : State) : Host.Outcome State Fault Refusal := .next (s.resetWith { s.pins with rstN := false })

/-- RST_N_RELEASE: RST_N rises; the reset ends if the supply is stable (R20, R180). -/
def execRstNRelease (s : State) : Host.Outcome State Fault Refusal :=
  .next { s with pins := { s.pins with rstN := true } }

/-- POWER_ON_RESET: supply is applied and not yet stable; every block takes its value after reset (R180). -/
def execPowerOnReset (s : State) : Host.Outcome State Fault Refusal :=
  .next (s.resetWith { s.pins with supply := .rising })

/-- SUPPLY_LOSS: everything in progress is abandoned, as RST_N does (R180). -/
def execSupplyLoss (s : State) : Host.Outcome State Fault Refusal := .next (s.resetWith { s.pins with supply := .off })

/-- SUPPLY_STABLE: the supply that was applied is stable; the reset ends if RST_N is high (R180). -/
def execSupplyStable (s : State) : Host.Outcome State Fault Refusal :=
  .next (if s.pins.supply = .rising then { s with pins := { s.pins with supply := .stable } } else s)

end Sys2Proof.Machine
end

