-- ==== Sys2Proof/Machine/Dispatch.lean ====
section
/-! DEFINITION. The meaning of every command: one arm for each constructor of Instr, each one call of its meaning. -/

namespace Sys2Proof.Machine

/-- The effect of a command on everything but the queue of waiting commands. -/
def exec (i : Instr) (s : State) : Host.Outcome State Fault Refusal :=
  match i with
  | .readRequest h => Sys2Proof.Machine.execReadRequest h s
  | .writeAddressTaken h => Sys2Proof.Machine.execWriteAddressTaken h s
  | .writeRequest beats => Sys2Proof.Machine.execWriteRequest beats s
  | .mspIssue dir id => Sys2Proof.Machine.execMspIssue dir id s
  | .forwardedResponse id resp busy => Sys2Proof.Machine.execForwardedResponse id resp busy s
  | .upstreamResponse dir id => Sys2Proof.Machine.execUpstreamResponse dir id s
  | .absorbedResponse dir id => Sys2Proof.Machine.execAbsorbedResponse dir id s
  | .lateResponse dir id codes => Sys2Proof.Machine.execLateResponse dir id codes s
  | .captureReadIssue k => Sys2Proof.Machine.execCaptureReadIssue k s
  | .oldLineReadResponse id beats => Sys2Proof.Machine.execOldLineReadResponse id beats s
  | .recordWriteIssue k => Sys2Proof.Machine.execRecordWriteIssue k s
  | .recordWriteResponse id code => Sys2Proof.Machine.execRecordWriteResponse id code s
  | .sweepVisit => Sys2Proof.Machine.execSweepVisit s
  | .format domain => Sys2Proof.Machine.execFormat domain s
  | .formatSlot1Issue d => Sys2Proof.Machine.execFormatSlot1Issue d s
  | .formatSlot1Response id code => Sys2Proof.Machine.execFormatSlot1Response id code s
  | .formatInvalidateResponse id code => Sys2Proof.Machine.execFormatInvalidateResponse id code s
  | .recover domain => Sys2Proof.Machine.execRecover domain s
  | .anchorReadIssue => Sys2Proof.Machine.execAnchorReadIssue s
  | .anchorReadResponse id beats => Sys2Proof.Machine.execAnchorReadResponse id beats s
  | .commit domain => Sys2Proof.Machine.execCommit domain s
  | .rollback domain => Sys2Proof.Machine.execRollback domain s
  | .close domain => Sys2Proof.Machine.execClose domain s
  | .anchorWriteIssue d => Sys2Proof.Machine.execAnchorWriteIssue d s
  | .commitAnchorResponse id code => Sys2Proof.Machine.execCommitAnchorResponse id code s
  | .recordReadResponse id beats => Sys2Proof.Machine.execRecordReadResponse id beats s
  | .replayWriteIssue => Sys2Proof.Machine.execReplayWriteIssue s
  | .replayWriteResponse id code => Sys2Proof.Machine.execReplayWriteResponse id code s
  | .rollbackAnchorResponse id code => Sys2Proof.Machine.execRollbackAnchorResponse id code s
  | .recoverAnchorResponse id code => Sys2Proof.Machine.execRecoverAnchorResponse id code s
  | .tick => Sys2Proof.Machine.execTick s
  | .holdTimeout => Sys2Proof.Machine.execHoldTimeout s
  | .memTimeout ref => Sys2Proof.Machine.execMemTimeout ref s
  | .frameStart => Sys2Proof.Machine.execFrameStart s
  | .frameEnd => Sys2Proof.Machine.execFrameEnd s
  | .crcMismatch bytes => Sys2Proof.Machine.execCrcMismatch bytes s
  | .unknownOpcode opcode => Sys2Proof.Machine.execUnknownOpcode opcode s
  | .ident => Sys2Proof.Machine.execIdent s
  | .getStatus => Sys2Proof.Machine.execGetStatus s
  | .setMask bits => Sys2Proof.Machine.execSetMask bits s
  | .clearEvents bits => Sys2Proof.Machine.execClearEvents bits s
  | .setTiming tickDiv holdTimeout memTimeout => Sys2Proof.Machine.execSetTiming tickDiv holdTimeout memTimeout s
  | .setRegion entry flags base pages => Sys2Proof.Machine.execSetRegion entry flags base pages s
  | .getRegion entry => Sys2Proof.Machine.execGetRegion entry s
  | .setDomain domain journalBase capacity anchorBase flags highMark => Sys2Proof.Machine.execSetDomain domain journalBase capacity anchorBase flags highMark s
  | .getDomain domain => Sys2Proof.Machine.execGetDomain domain s
  | .getCounter selector subtract => Sys2Proof.Machine.execGetCounter selector subtract s
  | .takeFault => Sys2Proof.Machine.execTakeFault s
  | .replyComplete => Sys2Proof.Machine.execReplyComplete s
  | .cutReply => Sys2Proof.Machine.execCutReply s
  | .shortFrame => Sys2Proof.Machine.execShortFrame s
  | .longFrame => Sys2Proof.Machine.execLongFrame s
  | .rstNAssert => Sys2Proof.Machine.execRstNAssert s
  | .rstNRelease => Sys2Proof.Machine.execRstNRelease s
  | .powerOnReset => Sys2Proof.Machine.execPowerOnReset s
  | .supplyLoss => Sys2Proof.Machine.execSupplyLoss s
  | .domainOp domain operation => Sys2Proof.Machine.execDomainOp domain operation s
  | .supplyStable => Sys2Proof.Machine.execSupplyStable s

end Sys2Proof.Machine
end

