-- ==== Sys2Proof/Machine/Step.lean ====
section
/-! DEFINITION. One step of the part: the command at the front of the queue, or an idle step on an empty queue. -/

namespace Sys2Proof.Machine

/-- One step: the command at the front of the queue takes effect with the queue's rest; on an empty queue one bus clock
passes (R156; notes/assumptions/2.md), and the byte that the SPI host clocks, if it clocks one, completes (R161;
notes/assumptions/15.md). -/
def step (s : State) : Host.Outcome State Fault Refusal :=
  match s.pending with
  | c :: rest => exec c { s with pending := rest }
  | [] => .next s.busClock.clockByte

/-- The state with the command that a word spells put at the front of its queue; no word spells one. -/
def State.withFetchWord (s : State) (nbits w : Nat) : State :=
  match decodeTableWord nbits w with
  | some c => { s with pending := c :: s.pending }
  | none => s

end Sys2Proof.Machine
end

