-- ==== Sys2Proof/Safety.lean ====
section
/-! DEFINITION. What claims about the part are stated in: the laws that the manual gives for every state (each a predicate on
`State`), and the vocabulary of frames. -/

namespace Sys2Proof.Machine

/-! ### Laws of every state -/

/-- The fault queue holds at most eight records, and the lost count never exceeds 255 (R151). -/
def State.FaultsBounded (s : State) : Prop :=
  s.faults.queue.length ≤ Config.faultPlaces ∧ s.faults.lost ≤ Config.maxLost

/-- Occupied and kept places together are at most the 32 places (R86). -/
def State.PlacesBounded (s : State) : Prop := s.hold.length + s.host.kept.length ≤ Config.holdPlaces

/-- The hold queue holds its entries in arrival order, no two with one arrival sequence, all below the position that the next
request takes (R85). -/
def State.HoldOrdered (s : State) : Prop :=
  s.hold.Pairwise (fun x y => x.arrival < y.arrival) ∧ ∀ e ∈ s.hold, e.arrival < s.host.nextArrival

/-- The accepted requests that wait for their answers stand in acceptance order, no two at one position, all below the
position that the next request takes (R1, R19). -/
def State.UnansweredOrdered (s : State) : Prop :=
  s.host.unanswered.Pairwise (fun x y => x.arrival < y.arrival) ∧
    ∀ u ∈ s.host.unanswered, u.arrival < s.host.nextArrival

/-- The response lists hold at most 64 requests together, those that the kept writes will add included (R1, R19;
notes/assumptions/11.md). -/
def State.UnansweredBounded (s : State) : Prop :=
  s.host.unanswered.length + s.host.kept.length ≤ Config.maxUnanswered

/-- A domain's occupancy never exceeds its capacity (R46), and it is 0 in OFF (R34). -/
def State.OccupancyBounded (s : State) : Prop :=
  ∀ d, (s.dom d).occupancy ≤ (s.dom d).config.capacity ∧ ((s.dom d).state = .off → (s.dom d).occupancy = 0)

/-- No two capture slots that are not FREE hold the same line address (R65). -/
def State.SlotsDistinct (s : State) : Prop :=
  ∀ j k, j ≠ k → (s.slot j).state ≠ .free → (s.slot k).state ≠ .free → (s.slot j).line ≠ (s.slot k).line

/-- The slots of a domain that are not FREE. -/
def State.busySlots (s : State) (d : DomId) : List SlotId :=
  allSlots.filter fun k => decide ((s.slot k).state ≠ .free) && decide ((s.slot k).domain = d)

/-- Slots in use is the number of the domain's slots that are not FREE (R24). -/
def State.SlotsCounted (s : State) : Prop := ∀ d, (s.dom d).slotsInUse = (s.busySlots d).length

/-- A valid filter entry stands in the set of its line (R70), and no two ways of a set hold valid entries of one domain and
line; together, at most one valid entry for each pair of domain and line (R76). -/
def State.FilterUnique (s : State) : Prop :=
  ∀ i : Fin 512,
    (∀ w : Fin 4, (s.filterSet i).ways[w].valid = true → setIndex (s.filterSet i).ways[w].line = i) ∧
    ∀ v w : Fin 4, v ≠ w → (s.filterSet i).ways[v].valid = true → (s.filterSet i).ways[w].valid = true →
      ¬((s.filterSet i).ways[v].domain = (s.filterSet i).ways[w].domain ∧
        (s.filterSet i).ways[v].line = (s.filterSet i).ways[w].line)

/-- The sweep queue holds each domain at most once and never the running sweep's domain, and is empty while no sweep runs; a
running sweep has 1 to 512 visits to make (R77, R78, R80). -/
def State.SweepsOrdered (s : State) : Prop :=
  s.sweep.queue.Nodup ∧
    match s.sweep.running with
    | none => s.sweep.queue = []
    | some r => r.domain ∉ s.sweep.queue ∧ 1 ≤ r.left ∧ r.left ≤ Config.filterSets

/-- The own accesses of one direction hold downstream IDs from 16 to 31, no two the same (R6). -/
def MemSide.IdsDistinct (m : MemSide) : Prop :=
  (m.issuedOwn.map (·.id)).Nodup ∧ ∀ i ∈ m.issuedOwn, 16 ≤ i.id.toNat

/-- The downstream IDs of both directions are distinct (R6). -/
def State.IdsDistinct (s : State) : Prop := s.mem.reads.IdsDistinct ∧ s.mem.writes.IdsDistinct

/-- The timing settings and the divider count are in their ranges (R95, R156, R157). -/
def State.TimingLegal (s : State) : Prop :=
  1 ≤ s.time.tickDiv ∧ s.time.tickDiv ≤ 1024 ∧ s.time.divCount < s.time.tickDiv ∧
    s.time.holdTimeout ≤ 65535 ∧ s.time.memTimeout ≤ 4095

/-- While the part is in reset, every block holds its value after reset (R20, R180). -/
def State.ResetHeld (s : State) : Prop := s.inReset = true → s = s.resetWith s.pins

/-- While CS_N is high the frame engine is in IDLE; in IDLE its buffers are empty and nothing is latched, and in REQUEST
nothing is latched and no reply is formed (R161, R173, R174). -/
def State.FrameQuiet (s : State) : Prop :=
  (s.pins.csN = true → s.frame.state = .idle) ∧
    (s.frame.state = .idle → s.frame = FrameEngine.reset) ∧
    (s.frame.state = .request → s.frame.latch = .empty ∧ s.frame.reply = [])

/-- In REQUEST nothing has been received and no length is expected, or the opcode byte heads the request buffer and fixes the
expected length, which the buffer has not reached; in REPLY the index has not reached the end of the reply (R161, R162). -/
def State.FrameCounted (s : State) : Prop :=
  (s.frame.state = .request →
    (s.frame.request = [] ∧ s.frame.expected = none) ∨
      ∃ opcode rest, s.frame.request = opcode :: rest ∧ s.frame.expected = some (expectedLength opcode) ∧
        s.frame.request.length < expectedLength opcode) ∧
    (s.frame.state = .reply → s.frame.index < s.frame.reply.length)

/-- While a TAKE_FAULT reply is being shifted out, the record it latched stands at the head of the fault queue (R152). -/
def State.LatchAtHead (s : State) : Prop :=
  s.frame.state = .reply → ∀ r, s.frame.latch = .fault r → s.faults.queue.head? = some r

/-- A valid region table entry has a page-aligned base, 1 to 2^28 pages, and ends within the address space (R8, R10); an
invalid one has every field zero (R10). -/
def State.RegionsLegal (s : State) : Prop :=
  ∀ i : Fin 16,
    (s.regions[i].valid = true →
      s.regions[i].base.toNat % Config.pageBytes = 0 ∧ 1 ≤ s.regions[i].pages ∧ s.regions[i].pages ≤ 2 ^ 28 ∧
        s.regions[i].base.toNat + s.regions[i].pages * Config.pageBytes ≤ Config.addressSpace) ∧
    (s.regions[i].valid = false → s.regions[i] = Region.reset)

/-- A domain's configuration is unset, or as the first check of R23 leaves it. -/
def DomainConfig.Legal (c : DomainConfig) : Prop :=
  c = DomainConfig.reset ∨
    (c.journalBase.toNat % Config.pageBytes = 0 ∧ 16 ≤ c.capacity ∧ c.capacity ≤ 65536 ∧
      c.anchorBase.toNat % 128 = 0 ∧ 1 ≤ c.highMark ∧ c.highMark ≤ c.capacity ∧
      (journalArea c).2 ≤ Config.addressSpace ∧ (anchorSpan c).2 ≤ Config.addressSpace ∧
      rangesMeet (anchorSpan c) (journalArea c) = false)

/-- Every domain's configuration is legal (R22, R23). -/
def State.ConfigsLegal (s : State) : Prop := ∀ d, (s.dom d).config.Legal

/-! ### The vocabulary of statements -/

/-- The part is in operation and its frame engine is receiving a request whose bytes so far are the first of those given
(R161). That the command which judges the request brings the rest of them is the model's choice (notes/assumptions/15.md). -/
def State.Receiving (s : State) (bytes : List Byte) : Prop :=
  s.inReset = false ∧ s.frame.state = .request ∧ s.frame.request <+: bytes

/-- The part is in operation and its frame engine is receiving the request of an opcode with its arguments and its correct
CRC byte: the bytes so far are the first of those (R161, R162, R163). -/
def State.Receives (s : State) (opcode : Byte) (args : List Byte) : Prop :=
  s.Receiving ((opcode :: args) ++ [crc8 (opcode :: args)])

/-- A command presents a request in full and the port takes it: a read address that may be taken, or the data beats of the
oldest write whose place is kept. `u` is the state without that kept place (R1, R86). -/
def State.Presents (s : State) (q : Request) (c : Instr) (u : State) : Prop :=
  match q.kind with
  | .read => c = .readRequest q.header ∧ q.data = [] ∧ s.takesAddress = true ∧ u = s
  | .write => c = .writeRequest q.data ∧ q.data.length = q.header.len ∧
      ∃ rest, s.host.kept = q.header :: rest ∧ u = { s with host := { s.host with kept := rest } }

/-- A request in its response list: it takes the next position of the acceptance order and a mark (R1, R19). -/
def State.entered (s : State) (q : Request) (m : Mark) : State :=
  { s with host := { s.host with
    nextArrival := s.host.nextArrival + 1
    unanswered := s.host.unanswered ++
      [{ arrival := s.host.nextArrival, id := q.header.id, kind := q.kind, len := q.header.len, mark := m }] } }

/-- The entry as which an accepted request is evaluated for the first time (R7, R85). -/
def firstEntry (arrival : Nat) (q : Request) (region : Option (Fin 16)) (mode : Mode) (domain : Option DomId) : Entry :=
  { req := q, region := region, mode := mode, domain := domain, arrival := arrival, wait := .order, uncovered := [],
    own := [], carried := false, deadline := none }

/-- A region table entry covers an address: it is valid and its range contains it (R9). -/
def Region.Covers (r : Region) (a : Addr) : Prop :=
  r.valid = true ∧ r.base.toNat ≤ a.toNat ∧ a.toNat < r.base.toNat + r.pages * 4096

/-- A region table entry governs an address: it is the lowest-numbered one that covers it (R9). -/
def State.Governs (s : State) (i : Fin 16) (a : Addr) : Prop :=
  s.regions[i].Covers a ∧ ∀ j, j < i → ¬s.regions[j].Covers a

/-- A write meets the areas of a domain that is not in OFF (R13). -/
def State.MeetsGuard (s : State) (d : DomId) (h : Header) : Prop :=
  (s.dom d).state ≠ .off ∧ meetsAreas h (s.dom d).config = true

/-- A request passes the first two steps of classification (R3, R7, R13). -/
def State.PassesGuards (s : State) (q : Request) : Prop :=
  crossesPage q.header = false ∧ q.header.len ≤ 16 ∧ (q.kind = .read ∨ ∀ d, ¬s.MeetsGuard d q.header)

/-- Some held entry has the initiator ID and the direction of a request (R18). -/
def State.HeldAlike (s : State) (q : Request) : Prop :=
  ∃ x ∈ s.hold, x.req.header.id = q.header.id ∧ x.req.kind = q.kind

/-- An access added to the tail of the own list of its direction (R5). -/
def State.withOwn (s : State) (a : OwnAccess) : State :=
  s.setSide a.dir { s.side a.dir with own := (s.side a.dir).own ++ [a] }

/-- A request marked in its response list (R19). -/
def State.marked (s : State) (arrival : Nat) (m : Mark) : State :=
  { s with host := { s.host with
    unanswered := s.host.unanswered.map fun u => if u.arrival = arrival then { u with mark := m } else u } }

/-- A request marked forwarded and added to the tail of the forwarded list of its direction (R5, R19, R93). -/
def State.sent (s : State) (e : Entry) : State :=
  (s.marked e.arrival .forwarded).setSide e.req.kind
    { s.side e.req.kind with
      forwarded := (s.side e.req.kind).forwarded ++ [{ arrival := e.arrival, req := e.req }] }

/-- A request out of the hold queue (R93, R94). -/
def State.without (s : State) (e : Entry) : State :=
  { s with hold := s.hold.filter fun x => decide (x.arrival ≠ e.arrival) }

/-- The fault record of a request that the fault names with its initiator ID and its first address (R149). -/
def requestFault (kind : FaultKind) (stamp : Ticks) (domain : Option DomId) (e : Entry) : FaultRecord :=
  { kind := kind, stamp := stamp, domain := domain, initiator := some e.req.header.id,
    address := some e.req.header.addr, position := none, code := none }

/-- The arrival sequences of the entries that wait ORDER with the initiator ID and the direction of one of the entries given
(R18, R91). -/
def State.behind (s : State) (gone : List Entry) : List Nat :=
  (s.hold.filter fun x => decide (x.wait = .order) &&
    gone.any fun e => decide (e.req.header.id = x.req.header.id) && decide (e.req.kind = x.req.kind)).map (·.arrival)

/-- The arrival sequences of the held entries of a domain with one of the waits given (R60, R92). -/
def State.waiting (s : State) (d : DomId) (waits : List Wait) : List Nat :=
  (s.hold.filter fun x => decide (x.domain = some d) && decide (x.wait ∈ waits)).map (·.arrival)

/-- The work list of a happening on its way: the arrival sequences of the entries still in the list, those of the entries
already re-evaluated under this happening, and the state of the part at this step (R91). -/
structure WorkList where
  left  : List Nat
  seen  : List Nat
  state : State
deriving DecidableEq, Repr

/-- The command of a domain operation with a domain byte. -/
def opCommand : DomOp → Byte → Instr
  | .format, b => .format b
  | .recover, b => .recover b
  | .commit, b => .commit b
  | .rollback, b => .rollback b
  | .close, b => .close b

/-- The argument bytes of a domain operation's frame (R178). -/
def opArgs (op : DomOp) (b : Byte) : List Byte := [b, BitVec.ofNat 8 (opCode op)]

/-- The state after a number of SWEEP_VISIT commands. -/
def State.visits : Nat → State → State
  | 0, s => s
  | n + 1, s =>
    match exec .sweepVisit s with
    | .next t => State.visits n t
    | _ => s

/-- The reservation that an allocation leaves in the domain record (R48). -/
def reserved (n : Nat) (x : Domain) : Domain := { x with occupancy := x.occupancy + n, slotsInUse := x.slotsInUse + n }

/-- What a drain leaves of a held entry of its domain: SLOT and SPACE waiters wait DRAIN, and CAPTURE and LINE waiters are
carried (R32). -/
def drainEntry (d : DomId) (e : Entry) : Entry :=
  if e.domain = some d then
    match e.wait with
    | .capture | .line => { e with carried := true }
    | .slot | .space => { e with wait := .drain }
    | .order | .drain | .roll => e
  else e

/-- An entry of a domain whose drain has ended: it is no longer carried (R32). -/
def drainedEntry (d : DomId) (e : Entry) : Entry := if e.domain = some d then { e with carried := false } else e

end Sys2Proof.Machine
end

