-- ==== Sys2Proof/Certificates/Slice0/Obligations.lean ====
section
/-! DEFINITION. The statements for the provers: one `Obligations.<Name> : Prop` for each, listed in OBLIGATIONS.json. -/

section SliceStatements

open Sys2Proof Sys2Proof.Machine

/-! ### Steps, reset and supply -/

/-- A step runs the command at the front of the queue on the state with the queue's rest. -/
def Obligations.StepRunsFrontCommand : Prop :=
  ∀ (c : Instr) (rest : List Instr) (s : State),
    step { s with pending := c :: rest } = exec c { s with pending := rest }

/-- On an empty queue a step is one bus clock and, at the management port, the byte that the SPI host clocks on it. The divider
count advances, or completes and the tick counter advances. A byte that completes in REQUEST joins the request buffer, and
the first one, the opcode, fixes the expected request length; one that completes in REPLY advances the reply index; nothing
else changes (R156, R161, R162). That the clock runs on the empty queue and waits for the timeouts of the present advance,
and that the bytes come from a queue of their own while the request CRC byte and the last byte of a reply come with their
commands, are the model's choices (notes/assumptions/2.md, 3.md and 15.md). -/
def Obligations.IdleStepIsOneBusClockAndByte : Prop :=
  ∀ s : State, s.pending = [] →
    ∃ t : State, step s = .next t ∧
      t = { s with time := t.time, frame := t.frame, pins := { s.pins with clocking := t.pins.clocking } } ∧
      let same := t.frame = s.frame ∧ t.pins = s.pins
      (s.inReset = true → t = s) ∧ (s.timeoutsLeft = true → t.time = s.time) ∧
      (s.inReset = false → s.timeoutsLeft = false →
        (s.time.divCount + 1 < s.time.tickDiv → t.time = { s.time with divCount := s.time.divCount + 1 }) ∧
        (s.time.tickDiv ≤ s.time.divCount + 1 →
          t.time = { s.time with divCount := 0, tick := s.time.tick + 1#32 })) ∧
      (s.pins.clocking = [] ∨ s.frame.state = .idle ∨ s.frame.state = .trail → same) ∧
      (s.inReset = false → ∀ b rest, s.pins.clocking = b :: rest →
        (s.frame.state = .request →
          (s.frame.expected = some (s.frame.request.length + 1) → same) ∧
          (s.frame.expected ≠ some (s.frame.request.length + 1) → t.pins.clocking = rest ∧
            (b = none → t.frame = s.frame) ∧
            (∀ v, b = some v → s.frame.request = [] →
              t.frame = { s.frame with request := [v], expected := some (1 + (argumentCount v).getD 0 + 1) }) ∧
            (∀ v, b = some v → s.frame.request ≠ [] →
              t.frame = { s.frame with request := s.frame.request ++ [v] }))) ∧
        (s.frame.state = .reply →
          (s.frame.reply.length ≤ s.frame.index + 1 → same) ∧
          (s.frame.index + 1 < s.frame.reply.length → t.pins.clocking = rest ∧
            (b = none → t.frame = s.frame) ∧
            (b ≠ none → t.frame = { s.frame with index := s.frame.index + 1 }))))

/-- The reset and supply commands: RST_N_ASSERT, POWER_ON_RESET and SUPPLY_LOSS take every block to its value after reset,
RST_N_RELEASE and SUPPLY_STABLE change one level, and the part is out of reset exactly with supply stable and RST_N high
(R20, R180). That SUPPLY_STABLE changes nothing unless the supply is rising, and that POWER_ON_RESET leaves it rising, is
deduced (notes/assumptions/7.md); that the waiting commands and the other pins keep their values is the model's choice
(notes/assumptions/10.md). -/
def Obligations.ResetAndSupplyCommands : Prop :=
  ∀ s : State,
    exec .rstNAssert s =
      .next { State.reset with pins := { s.pins with rstN := false }, pending := s.pending } ∧
    exec .powerOnReset s =
      .next { State.reset with pins := { s.pins with supply := .rising }, pending := s.pending } ∧
    exec .supplyLoss s =
      .next { State.reset with pins := { s.pins with supply := .off }, pending := s.pending } ∧
    exec .rstNRelease s = .next { s with pins := { s.pins with rstN := true } } ∧
    (s.pins.supply = .rising → exec .supplyStable s = .next { s with pins := { s.pins with supply := .stable } }) ∧
    (s.pins.supply ≠ .rising → exec .supplyStable s = .next s) ∧
    (s.inReset = false ↔ s.pins.supply = .stable ∧ s.pins.rstN = true)

/-- What every reset leaves in every block, whatever the levels at the pins (R8, R20, R22, R24, R42, R43, R68, R77, R84, R95,
R119, R138, R157, R160, R174). That a domain's anchor job is idle, and a slot's write not handed over and its deadline none,
is deduced (notes/assumptions/13.md, section 2.10). -/
def Obligations.ResetStateValues : Prop :=
  ∀ (s : State) (p : Pins),
    let t := s.resetWith p
    t.host.kept = [] ∧ t.host.unanswered = [] ∧ t.hold = [] ∧
    (∀ dir, (t.side dir).forwarded = [] ∧ (t.side dir).own = [] ∧ (t.side dir).issued = [] ∧
      (t.side dir).issuedOwn = [] ∧ (t.side dir).turn = .forwarded ∧ (t.up dir).waiting = []) ∧
    (∀ i : Fin 16, t.regions[i] = { valid := false, base := 0#40, pages := 0, mode := .pass, domain := 0 }) ∧
    (∀ d, t.dom d =
      { config := { journalBase := 0#40, capacity := 0, anchorBase := 0#40, policy := .stall, highMark := 0,
                    counterMode := .wrap, halfEnable := false },
        state := .off, epoch := 0#32, occupancy := 0, pending := .none, lastOp := none, lastResult := .ok,
        pressure := false, brokenMark := false, slotsInUse := 0, anchor := .idle,
        counters := Vector.replicate 12 0#32 } ∧ t.sweepPending d = false) ∧
    (∀ k, t.slot k =
      { state := .free, domain := 0, line := 0#34, region := 0, position := 0, epoch := 0#32, stamp := 0#32,
        buffer := List.replicate 64 0#8, readIssued := false, writeHanded := false, deadline := none }) ∧
    (∀ (i : Fin 512) (w : Fin 4),
      (t.filterSet i).ways[w] = { valid := false, domain := 0, line := 0#34, parity := false } ∧
      (t.filterSet i).pointer = 0) ∧
    t.sweep = { queue := [], running := none } ∧ t.replay = { walk := none, waiting := [] } ∧
    (∀ i : Fin 4, t.globals[i] = 0#32) ∧
    t.faults = { queue := [], lost := 0, flags := 0#19, mask := 0#19 } ∧ t.irqAsserted = false ∧
    t.time = { tickDiv := 100, divCount := 0, tick := 0#32, holdTimeout := 0, memTimeout := 0 } ∧
    t.frame.state = .idle ∧ t.frame.request = [] ∧ t.frame.reply = [] ∧ t.frame.latch = .empty ∧ t.miso = .released

/-! ### The management port -/

/-- The frame commands: a frame begins at a fall of CS_N out of reset, ends at a rise of CS_N in TRAIL, is cut at a rise in
REPLY, is short at a rise in REQUEST, and runs long at the first bit in TRAIL; short and long frames count in MGMT_ERRORS and
raise MGMT_ERR. MISO is released while CS_N is high and in IDLE, and carries 0xFF in REQUEST, the reply byte at the index in
REPLY and 0x00 in TRAIL (R161, R165, R166, R167, R174). That a fall of CS_N while the part is in reset changes that level only
is the model's choice (notes/assumptions/10.md). -/
def Obligations.FrameEngineMoves : Prop :=
  ∀ s : State,
    (s.inReset = true → s.pins.csN = true →
      exec .frameStart s = .next { s with pins := { s.pins with csN := false } }) ∧
    (s.inReset = false →
      (s.pins.csN = true → exec .frameStart s = .next
        { s with pins := { s.pins with csN := false }, frame := { FrameEngine.reset with state := .request } }) ∧
      (s.pins.csN = false → s.frame.state = .trail →
        exec .frameEnd s = .next { s with pins := { s.pins with csN := true }, frame := FrameEngine.reset }) ∧
      (s.frame.state = .reply →
        exec .cutReply s = .next { s with pins := { s.pins with csN := true }, frame := FrameEngine.reset }) ∧
      (s.frame.state = .request →
        exec .shortFrame s = .next { s with
          pins := { s.pins with csN := true }
          frame := FrameEngine.reset
          globals := s.globals.set 3 (s.globals[3] + 1#32)
          faults := { s.faults with flags := s.faults.flags ||| (1#19 <<< 18) } }) ∧
      (s.frame.state = .trail → s.frame.ranLong = false →
        exec .longFrame s = .next { s with
          frame := { s.frame with ranLong := true }
          globals := s.globals.set 3 (s.globals[3] + 1#32)
          faults := { s.faults with flags := s.faults.flags ||| (1#19 <<< 18) } }) ∧
      (s.frame.state = .trail → s.frame.ranLong = true → exec .longFrame s = .next s)) ∧
    (s.pins.csN = true ∨ s.frame.state = .idle → s.miso = .released) ∧
    (s.pins.csN = false →
      (s.frame.state = .request → s.miso = .drives 0xFF#8) ∧
      (s.frame.state = .reply → ∀ b, s.frame.reply[s.frame.index]? = some b → s.miso = .drives b) ∧
      (s.frame.state = .trail → s.miso = .drives 0x00#8))

/-- A request whose CRC byte does not check is answered CRC with its opcode's count of zero bytes, and one of an opcode that
is none of the twelve is answered OPCODE with none; neither changes anything but the reply (R163, R164). -/
def Obligations.UnjudgedRequestsChangeNothing : Prop :=
  ∀ s : State,
    (∀ (opcode : Byte) (args : List Byte) (check : Byte), s.Receiving ((opcode :: args) ++ [check]) →
      args.length = (argumentCount opcode).getD 0 → check ≠ crc8 (opcode :: args) →
      ∃ reply, reply = 0x04#8 :: List.replicate (replyCount opcode) 0x00#8 ∧
        exec (.crcMismatch ((opcode :: args) ++ [check])) s = .next { s with frame := { s.frame with
          state := .reply
          request := (opcode :: args) ++ [check]
          expected := some (args.length + 2)
          reply := reply ++ [crc8 reply]
          index := 0 } }) ∧
    (∀ opcode : Byte, s.Receives opcode [] → opcode = 0 ∨ 12 < opcode.toNat →
      exec (.unknownOpcode opcode) s = .next { s with frame := { s.frame with
        state := .reply
        request := [opcode, crc8 [opcode]]
        expected := some 2
        reply := [0x05#8, crc8 [0x05#8]]
        index := 0 } })

/-- The reply to a known opcode: its request bytes with their CRC-8, and a reply of status byte, data (all zero under any
status but OK) and CRC-8; the status bytes and the lengths of the twelve requests are those of section 11.4, and an unknown opcode has
no arguments and no reply data (R162, R164, R177, R178, R179). -/
def Obligations.ReplyLayout : Prop :=
  (∀ (s : State) (opcode : Byte) (args data : List Byte) (status : Status),
    ∃ body, (status = .ok → body = 0x00#8 :: data) ∧
      (status ≠ .ok → body = statusByte status :: List.replicate (replyCount opcode) 0x00#8) ∧
      s.reply opcode args status data = { s with frame := { s.frame with
        state := .reply
        request := (opcode :: args) ++ [crc8 (opcode :: args)]
        expected := some (args.length + 2)
        reply := body ++ [crc8 body]
        index := 0 } }) ∧
  (statusByte .busy = 0x01#8 ∧ statusByte .state = 0x02#8 ∧ statusByte .arg = 0x03#8 ∧ statusByte .crc = 0x04#8 ∧
    statusByte .opcode = 0x05#8) ∧
  ([1, 2, 3, 4, 5, 6, 7, 8, 9, 10, 11, 12].map fun n => (argumentCount n, replyCount n)) =
    [(some 0, 3), (some 0, 13), (some 3, 0), (some 3, 0), (some 6, 0), (some 11, 0), (some 1, 10), (some 20, 0),
      (some 1, 35), (some 2, 0), (some 2, 4), (some 0, 16)] ∧
  (∀ opcode : Byte, opcode = 0 ∨ 12 < opcode.toNat → argumentCount opcode = none ∧ replyCount opcode = 0)

/-- The completion of a reply enters TRAIL and makes the reply-completion effects: the subtraction of a subtracting
GET_COUNTER, the removal of TAKE_FAULT's record, and no other (R145, R152, R165). -/
def Obligations.ReplyCompletionEffects : Prop :=
  ∀ s : State, s.inReset = false → s.frame.state = .reply →
    let f := { s.frame with state := .trail, index := s.frame.reply.length }
    (∀ r, s.frame.latch = .fault r → exec .replyComplete s =
      .next { s with frame := f, faults := { s.faults with queue := s.faults.queue.tail } }) ∧
    (∀ d i v left, s.frame.latch = .counter (.domain d i) v true →
      ((s.dom d).config.counterMode = .wrap → left = (s.dom d).counters[i] - v) →
      ((s.dom d).config.counterMode = .saturate → left.toNat = (s.dom d).counters[i].toNat - v.toNat) →
      exec .replyComplete s = .next { s with
        frame := f
        domains := s.domains.set d { s.dom d with counters := (s.dom d).counters.set i left } }) ∧
    (∀ i v, s.frame.latch = .counter (.global i) v true → exec .replyComplete s =
      .next { s with frame := f, globals := s.globals.set i (s.globals[i] - v) }) ∧
    ((s.frame.latch = .empty ∨ ∃ sel v, s.frame.latch = .counter sel v false) →
      exec .replyComplete s = .next { s with frame := f })

/-- IDENT, GET_STATUS, GET_COUNTER and TAKE_FAULT answer OK with the part's state of that moment; GET_COUNTER latches the
counter it names and TAKE_FAULT the oldest record, whose sixteen reply bytes are those of R179; an out-of-range selector or
flag is answered ARG; nothing else changes (R143, R144, R152, R168, R178, R179). -/
def Obligations.ReadingRequestsReplyAndLatch : Prop :=
  (∀ s : State,
    (s.Receives 0x01#8 [] → exec .ident s = .next (s.reply 0x01#8 [] .ok [0x5A#8, 0x16#8, 0x01#8])) ∧
    (s.Receives 0x02#8 [] → exec .getStatus s = .next (s.reply 0x02#8 [] .ok
      (beBytes 3 s.faults.flags.toNat ++ beBytes 3 s.faults.mask.toNat ++ [BitVec.ofNat 8 s.hold.length] ++
        [BitVec.ofNat 8 s.faults.queue.length] ++ [BitVec.ofNat 8 s.faults.lost] ++ beBytes 4 s.time.tick.toNat))) ∧
    (∀ (d : DomId) (i : Fin 12) (sub : Bool) (selector subtract : Byte), s.Receives 0x0B#8 [selector, subtract] →
      selector.toNat = 16 * d.val + i.val → subtract = (if sub then 1#8 else 0#8) →
      exec (.getCounter selector subtract) s = .next
        (State.reply { s with frame := { s.frame with latch := .counter (.domain d i) (s.dom d).counters[i] sub } }
          0x0B#8 [selector, subtract] .ok (beBytes 4 (s.dom d).counters[i].toNat))) ∧
    (∀ (i : Fin 4) (sub : Bool) (selector subtract : Byte), s.Receives 0x0B#8 [selector, subtract] →
      selector.toNat = 0xF0 + i.val → subtract = (if sub then 1#8 else 0#8) →
      exec (.getCounter selector subtract) s = .next
        (State.reply { s with frame := { s.frame with latch := .counter (.global i) s.globals[i] sub } }
          0x0B#8 [selector, subtract] .ok (beBytes 4 s.globals[i].toNat))) ∧
    (∀ selector subtract : Byte, s.Receives 0x0B#8 [selector, subtract] →
      (4 ≤ selector.toNat / 16 ∧ selector.toNat / 16 ≠ 15) ∨
        (selector.toNat / 16 < 4 ∧ 12 ≤ selector.toNat % 16) ∨
        (selector.toNat / 16 = 15 ∧ 4 ≤ selector.toNat % 16) ∨ 1 < subtract.toNat →
      exec (.getCounter selector subtract) s = .next (s.reply 0x0B#8 [selector, subtract] .arg [])) ∧
    (s.Receives 0x0C#8 [] →
      (∀ r rest, s.faults.queue = r :: rest → exec .takeFault s = .next
        (State.reply { s with frame := { s.frame with latch := .fault r } } 0x0C#8 [] .ok (faultBytes r))) ∧
      (s.faults.queue = [] → exec .takeFault s = .next (s.reply 0x0C#8 [] .ok (List.replicate 16 0#8))))) ∧
  (∀ r : FaultRecord,
    let present : Nat := (if r.domain = none then 0 else 1) + (if r.initiator = none then 0 else 2) +
      (if r.address = none then 0 else 4) + (if r.position = none then 0 else 8) + (if r.code = none then 0 else 16)
    ∀ (domain initiator code : Byte) (address position : List Byte),
      (r.domain = none → domain = 0#8) → (∀ d, r.domain = some d → domain.toNat = d.val) →
      (r.initiator = none → initiator = 0#8) → (∀ i, r.initiator = some i → initiator.toNat = i.toNat) →
      (r.address = none → address = [0#8, 0#8, 0#8, 0#8, 0#8]) → (∀ a, r.address = some a → address = beBytes 5 a.toNat) →
      (r.position = none → position = [0#8, 0#8]) → (∀ p, r.position = some p → position = beBytes 2 p) →
      (r.code = none ∨ r.code = some .okay → code = 0#8) → (∀ c, r.code = some c → c ≠ .okay → code = 1#8) →
      faultBytes r = [BitVec.ofNat 8 (kindCode r.kind), BitVec.ofNat 8 present] ++ beBytes 4 r.stamp.toNat ++
        [domain, initiator] ++ address ++ position ++ [code]) ∧
  [FaultKind.captureFailed, .recordFailed, .anchorFailed, .replayReadFailed, .replayWriteFailed, .replayBadRecord,
    .holdTimeout, .journalFull, .guardWrite, .badBurst, .lateResponse].map kindCode =
    [1, 2, 3, 4, 5, 6, 7, 8, 9, 10, 11]

/-- SET_MASK replaces the mask, CLEAR_EVENTS clears the flags named and with FAULT_LOST the lost count, and a set with a bit
outside the nineteen is answered ARG with nothing changed (R155, R169). -/
def Obligations.MaskAndEventsSetAndCleared : Prop :=
  ∀ (s : State) (bits : BitVec 24),
    (s.Receives 0x03#8 (beBytes 3 bits.toNat) →
      (bits.toNat < 2 ^ 19 → exec (.setMask bits) s = .next
        (State.reply { s with faults := { s.faults with mask := bits.setWidth 19 } } 0x03#8 (beBytes 3 bits.toNat) .ok
          [])) ∧
      (2 ^ 19 ≤ bits.toNat → exec (.setMask bits) s = .next (s.reply 0x03#8 (beBytes 3 bits.toNat) .arg []))) ∧
    (s.Receives 0x04#8 (beBytes 3 bits.toNat) →
      (bits.toNat < 2 ^ 19 → exec (.clearEvents bits) s = .next
        (State.reply { s with faults := { s.faults with
            flags := s.faults.flags &&& ~~~(bits.setWidth 19)
            lost := if bits.getLsbD 17 then 0 else s.faults.lost } } 0x04#8 (beBytes 3 bits.toNat) .ok [])) ∧
      (2 ^ 19 ≤ bits.toNat → exec (.clearEvents bits) s = .next (s.reply 0x04#8 (beBytes 3 bits.toNat) .arg [])))

/-- IRQ_N is driven low exactly while some flag is set whose mask bit is 1; raising an event sets its flag and leaves every
other flag and the mask as they stand (R153, R154). -/
def Obligations.InterruptLineFollowsFlags : Prop :=
  (∀ s : State, s.irqAsserted = true ↔
    ∃ i : Fin 19, s.faults.flags.getLsbD i.val = true ∧ s.faults.mask.getLsbD i.val = true) ∧
  (∀ (s : State) (e : Event) (i : Fin 19),
    (s.raise e).faults.flags.getLsbD i.val = (s.faults.flags.getLsbD i.val || decide (i.val = eventIndex e)) ∧
    (s.raise e).faults.mask = s.faults.mask)

/-- SET_TIMING checks the three ranges, then that every domain is OFF, and then sets the three values with the divider count
at 0 and the tick counter kept (R170). -/
def Obligations.TimingSetOnlyWhileAllOff : Prop :=
  ∀ (s : State) (tickDiv holdTimeout memTimeout : BitVec 16),
    let args := beBytes 2 tickDiv.toNat ++ beBytes 2 holdTimeout.toNat ++ beBytes 2 memTimeout.toNat
    s.Receives 0x05#8 args →
    let inRange := 1 ≤ tickDiv.toNat ∧ tickDiv.toNat ≤ 1024 ∧ memTimeout.toNat ≤ 4095
    (¬inRange → exec (.setTiming tickDiv holdTimeout memTimeout) s = .next (s.reply 0x05#8 args .arg [])) ∧
    (inRange → (∃ d, (s.dom d).state ≠ .off) →
      exec (.setTiming tickDiv holdTimeout memTimeout) s = .next (s.reply 0x05#8 args .state [])) ∧
    (inRange → (∀ d, (s.dom d).state = .off) →
      exec (.setTiming tickDiv holdTimeout memTimeout) s = .next
        (State.reply { s with time :=
          { tickDiv := tickDiv.toNat, divCount := 0, tick := s.time.tick, holdTimeout := holdTimeout.toNat,
            memTimeout := memTimeout.toNat } } 0x05#8 args .ok []))

/-- SET_REGION makes the argument checks, then the two state checks, and writes the entry whole; with valid 0 it leaves an
entry of zeros. GET_REGION answers the entry's fields, the modes PASS, JOURNAL and GUARD as 0, 1 and 2, and an index above 15
is answered ARG (R10, R178, R179). -/
def Obligations.RegionEntriesWrittenAndRead : Prop :=
  (∀ (s : State) (entry flags : Byte) (base : Addr) (pages : BitVec 32),
    let args := [entry, flags] ++ beBytes 5 base.toNat ++ beBytes 4 pages.toNat
    let legal := base.toNat % 4096 = 0 ∧ 1 ≤ pages.toNat ∧ pages.toNat ≤ 2 ^ 28 ∧
      base.toNat + pages.toNat * 4096 ≤ 2 ^ 40 ∧ flags.toNat / 2 % 4 ≠ 3
    (s.Receives 0x06#8 args →
      (16 ≤ entry.toNat ∨ (flags.getLsbD 0 = true ∧ ¬legal) →
        exec (.setRegion entry flags base pages) s = .next (s.reply 0x06#8 args .arg [])) ∧
      (∀ i : Fin 16, entry.toNat = i.val → (flags.getLsbD 0 = true → legal) →
        ∀ new : Region,
          (flags.getLsbD 0 = false → new = { valid := false, base := 0#40, pages := 0, mode := .pass, domain := 0 }) →
          (flags.getLsbD 0 = true → new.valid = true ∧ new.base = base ∧ new.pages = pages.toNat ∧
            modeCode new.mode = flags.toNat / 2 % 4 ∧ new.domain.val = flags.toNat / 16 % 4) →
          let free := fun r : Region => r.valid = false ∨ r.mode ≠ .journal ∨ (s.dom r.domain).state = .off
          (free s.regions[i] ∧ free new → exec (.setRegion entry flags base pages) s =
            .next (State.reply { s with regions := s.regions.set i new } 0x06#8 args .ok [])) ∧
          (¬(free s.regions[i] ∧ free new) → exec (.setRegion entry flags base pages) s =
            .next (s.reply 0x06#8 args .state [])))) ∧
    (s.Receives 0x07#8 [entry] →
      (16 ≤ entry.toNat → exec (.getRegion entry) s = .next (s.reply 0x07#8 [entry] .arg [])) ∧
      (∀ i : Fin 16, entry.toNat = i.val →
        exec (.getRegion entry) s = .next (s.reply 0x07#8 [entry] .ok
          ([BitVec.ofNat 8 ((if s.regions[i].valid then 1 else 0) + 2 * modeCode s.regions[i].mode +
              16 * s.regions[i].domain.val)] ++ beBytes 5 s.regions[i].base.toNat ++ beBytes 4 s.regions[i].pages))))) ∧
  [Mode.pass, .journal, .guarded].map modeCode = [0, 1, 2]

/-- SET_DOMAIN makes its three checks in order and then sets the seven configuration fields and no run-time field (R23,
R178). -/
def Obligations.DomainConfigurationChecked : Prop :=
  ∀ (s : State) (domain : Byte) (journalBase : Addr) (capacity : BitVec 32) (anchorBase : Addr) (flags : Byte)
    (highMark : BitVec 32),
    let args := [domain] ++ beBytes 5 journalBase.toNat ++ beBytes 4 capacity.toNat ++ beBytes 5 anchorBase.toNat ++
      [flags] ++ beBytes 4 highMark.toNat
    s.Receives 0x08#8 args →
    let run := exec (.setDomain domain journalBase capacity anchorBase flags highMark) s
    ∀ c : DomainConfig, c.journalBase = journalBase → c.capacity = capacity.toNat → c.anchorBase = anchorBase →
      c.highMark = highMark.toNat → c.halfEnable = flags.getLsbD 3 →
      (c.counterMode = .saturate ↔ flags.getLsbD 2 = true) →
      (flags.toNat % 4 ≠ 3 → policyCode c.policy = flags.toNat % 4) →
      let legal := journalBase.toNat % 4096 = 0 ∧ 16 ≤ capacity.toNat ∧ capacity.toNat ≤ 65536 ∧
        anchorBase.toNat % 128 = 0 ∧ 1 ≤ highMark.toNat ∧ highMark.toNat ≤ capacity.toNat ∧ flags.toNat % 4 ≠ 3 ∧
        journalBase.toNat + capacity.toNat * 128 ≤ 2 ^ 40 ∧ anchorBase.toNat + 128 ≤ 2 ^ 40 ∧
        (anchorBase.toNat + 128 ≤ journalBase.toNat ∨
          journalBase.toNat + capacity.toNat * 128 ≤ anchorBase.toNat)
      (4 ≤ domain.toNat ∨ ¬legal → run = .next (s.reply 0x08#8 args .arg [])) ∧
      (∀ d : DomId, domain.toNat = d.val → legal →
        ((s.dom d).state ≠ .off → run = .next (s.reply 0x08#8 args .state [])) ∧
        ((s.dom d).state = .off →
          ((∃ o, o ≠ d ∧ (s.dom o).state ≠ .off ∧ areasOverlap c (s.dom o).config = true) →
            run = .next (s.reply 0x08#8 args .arg [])) ∧
          ((∀ o, o ≠ d → (s.dom o).state ≠ .off → areasOverlap c (s.dom o).config = false) →
            run = .next (State.reply { s with domains := s.domains.set d { s.dom d with config := c } } 0x08#8 args
              .ok []))))

/-- GET_DOMAIN answers the configuration, the run-time fields and the twelve half-point bits as they stand, each at its offset
and with its codes, and changes nothing; a domain number above 3 is answered ARG (R171, R179). -/
def Obligations.DomainRecordReported : Prop :=
  (∀ (s : State) (domain : Byte), s.Receives 0x09#8 [domain] →
    (4 ≤ domain.toNat → exec (.getDomain domain) s = .next (s.reply 0x09#8 [domain] .arg [])) ∧
    (∀ d : DomId, domain.toNat = d.val →
      let x := s.dom d
      ∃ halves : Nat, (∀ i : Fin 12, halves.testBit i.val = x.counters[i].getLsbD 31) ∧ halves < 2 ^ 12 ∧
        exec (.getDomain domain) s = .next (s.reply 0x09#8 [domain] .ok
          (beBytes 5 x.config.journalBase.toNat ++ beBytes 4 x.config.capacity ++
            beBytes 5 x.config.anchorBase.toNat ++
            [BitVec.ofNat 8 (policyCode x.config.policy + (if x.config.counterMode = .saturate then 4 else 0) +
              (if x.config.halfEnable then 8 else 0))] ++ beBytes 4 x.config.highMark ++
            [BitVec.ofNat 8 (stateCode x.state)] ++ beBytes 4 x.epoch.toNat ++ beBytes 4 x.occupancy ++
            [BitVec.ofNat 8 (pendingCode x.pending)] ++ [BitVec.ofNat 8 (lastOpCode x.lastOp)] ++
            [BitVec.ofNat 8 (resultCode x.lastResult)] ++
            [BitVec.ofNat 8 ((if x.pressure then 1 else 0) + (if x.brokenMark then 2 else 0) +
              (if s.sweepPending d then 4 else 0))] ++
            [BitVec.ofNat 8 x.slotsInUse] ++ beBytes 2 halves)))) ∧
  [Policy.stall, .refuse, .breaks].map policyCode = [0, 1, 2] ∧
  [DomState.off, .formatting, .recovering, .openState, .draining, .committing, .rolling, .broken].map stateCode =
    [0, 1, 2, 3, 4, 5, 6, 7] ∧
  [Pending.none, .commit, .rollback, .close].map pendingCode = [0, 1, 2, 3] ∧
  [none, some DomOp.format, some .recover, some .commit, some .rollback, some .close].map lastOpCode = [0, 1, 2, 3, 4, 5] ∧
  [OpResult.ok, .partialResult, .failed, .noAnchor].map resultCode = [0, 1, 2, 3]

/-! ### Acceptance and the two ports -/

/-- An address is taken exactly while fewer than 32 places are occupied or kept and fewer than 64 requests are accepted and
unanswered or have a place kept for them; a write address that is taken keeps a place, and an address that is not taken
changes nothing (R1, R19, R86). That kept places count towards the 64 is deduced from R19's bound (notes/assumptions/11.md),
and that a write address may be taken while an earlier write's data still arrive is the model's choice
(notes/assumptions/29.md). That the command of an address that is not taken changes nothing is the model's choice too
(notes/assumptions/1.md). -/
def Obligations.AddressesTakenWhileRoom : Prop :=
  ∀ (s : State) (h : Header), s.inReset = false →
    (s.hold.length + s.host.kept.length < 32 → s.host.unanswered.length + s.host.kept.length < 64 →
      s.takesAddress = true ∧
      exec (.writeAddressTaken h) s = .next { s with host := { s.host with kept := s.host.kept ++ [h] } }) ∧
    (32 ≤ s.hold.length + s.host.kept.length ∨ 64 ≤ s.host.unanswered.length + s.host.kept.length →
      s.takesAddress = false ∧ exec (.writeAddressTaken h) s = .next s ∧ exec (.readRequest h) s = .next s)

/-- A request that crosses a page or has more than 16 beats, a write that meets the areas of a domain not in OFF, a write to
a GUARD region, and a request to a JOURNAL region that is not INCR or is exclusive are refused at acceptance, in that order
of classification: marked refused in its list, counted in its global counter, and recorded as a fault (R3, R7, R12, R13,
R14). -/
def Obligations.RequestsRefusedAtClassification : Prop :=
  ∀ (s u : State) (q : Request) (c : Instr), s.inReset = false → s.Presents q c u → s.UnansweredOrdered →
    let refused := fun (g : GlobalCounter) (kind : FaultKind) (domain : Option DomId) =>
      ((u.entered q .refused).countGlobal g).fault kind (domain := domain) (initiator := some q.header.id)
        (address := some q.header.addr)
    (crossesPage q.header = true ∨ 16 < q.header.len → exec c s = .next (refused .badBursts .badBurst none)) ∧
    (crossesPage q.header = false → q.header.len ≤ 16 → q.kind = .write →
      ∀ d, s.MeetsGuard d q.header → (∀ o, o < d → ¬s.MeetsGuard o q.header) →
        exec c s = .next (refused .guardRefused .guardWrite (some d))) ∧
    (s.PassesGuards q → ∀ i, s.Governs i q.header.addr →
      (s.regions[i].mode = .guarded → q.kind = .write →
        exec c s = .next (refused .guardRefused .guardWrite none)) ∧
      (s.regions[i].mode = .journal → q.header.burst ≠ .incr ∨ q.header.exclusive = true →
        exec c s = .next (refused .badBursts .badBurst (some s.regions[i].domain))))

/-- A request that is not refused at classification is evaluated: without a JOURNAL entry it is forwarded, or held with wait
ORDER behind an entry of its ID and direction. With one, a write is counted in WRITES_SEEN and the request is evaluated under
its domain: forwarded with its filter hits counted; refused with REFUSED counted, and JOURNAL_FULL recorded if the journal is
full; forwarded after it has broken its domain, whose waiters are re-evaluated; or enqueued at the tail with the deadline of
R95, carried 0 and HELD counted, after an allocation if it waits CAPTURE (R7, R11, R12, R18, R48, R51, R52, R60, R88, R93,
R94, R95). -/
def Obligations.RequestsEvaluatedAtAcceptance : Prop :=
  ∀ (s u : State) (q : Request) (c : Instr), s.inReset = false → s.Presents q c u → s.UnansweredOrdered →
    s.HoldOrdered → s.PassesGuards q →
    let n := s.host.nextArrival
    let deadline := s.deadlineIn s.time.holdTimeout
    (∀ region mode,
      (region = none ∧ mode = .pass ∧ ∀ i : Fin 16, ¬s.regions[i].Covers q.header.addr) ∨
        (∃ i, region = some i ∧ s.Governs i q.header.addr ∧ s.regions[i].mode = mode ∧
          (mode = .pass ∨ (mode = .guarded ∧ q.kind = .read))) →
      let e := firstEntry n q region mode none
      (¬s.HeldAlike q → exec c s = .next ((u.entered q .held).sent e)) ∧
      (s.HeldAlike q → exec c s = .next { u.entered q .held with hold := s.hold ++ [{ e with deadline := deadline }] })) ∧
    (∀ i, s.Governs i q.header.addr → s.regions[i].mode = .journal → q.header.burst = .incr →
      q.header.exclusive = false →
      let d := s.regions[i].domain
      let e := firstEntry n q (some i) .journal (some d)
      let full := requestFault .journalFull s.time.tick (some d) e
      let enqueued := fun (t : State) (wait : Wait) (lines own : List Line) =>
        State.count { t with hold := t.hold ++
          [{ e with wait := wait, uncovered := lines, own := own, carried := false, deadline := deadline }] } d .held 1
      ∀ v : State, (q.kind = .write → v = (u.entered q .held).count d .writesSeen 1) →
        (q.kind = .read → v = u.entered q .held) →
        (v.decision e = .forward 0 → exec c s = .next (v.sent e)) ∧
        (∀ hits, 0 < hits → v.decision e = .forward hits →
          exec c s = .next ((v.sent e).count d .filterHits hits)) ∧
        (v.decision e = .refuseOff → exec c s = .next ((v.marked n .refused).count d .refused 1)) ∧
        (v.decision e = .refuseFull →
          exec c s = .next (((v.marked n .refused).count d .refused 1).enqueueFault full)) ∧
        (v.decision e = .breakForward →
          ∃ t : State, t = State.sent (State.requestSweep (State.raise
              ((v.enqueueFault full).setDom d { v.dom d with state := .broken }) (.broken d)) d) e ∧
            exec c s = .next (t.reevaluate (t.waiting d [.capture, .line, .slot, .space]))) ∧
        (∀ wait lines carried, v.decision e = .hold wait lines carried →
          carried = false ∧ exec c s = .next (enqueued v wait lines [])) ∧
        (∀ lines, v.decision e = .allocate lines →
          exec c s = .next (enqueued (v.allocateSlots d i lines) .capture lines lines)))

/-- The memory-side port issues the head of the only list of a direction whose head is ready, and of the list the turn names
where both are; each issue passes the turn to the other list, and an own access takes an ID from 16 to 31 that no own access
of the direction holds (R5, R6). That MSP_ISSUE changes nothing where no head is ready is the model's choice
(notes/assumptions/1.md), as is that the command names the ID (notes/assumptions/5.md). -/
def Obligations.MspIssueTakesTurns : Prop :=
  ∀ (s : State) (dir : Dir) (id : DownId), s.inReset = false →
    let m := s.side dir
    let ownReady := m.own ≠ [] ∧ ∃ n : DownId, 16 ≤ n.toNat ∧ ∀ i ∈ m.issuedOwn, i.id ≠ n
    (∀ f rest, m.forwarded = f :: rest → ¬ownReady ∨ m.turn = .forwarded →
      exec (.mspIssue dir id) s =
        .next (s.setSide dir { m with forwarded := rest, issued := m.issued ++ [f], turn := .own })) ∧
    (∀ a rest, m.own = a :: rest → 16 ≤ id.toNat → (∀ i ∈ m.issuedOwn, i.id ≠ id) →
      m.forwarded = [] ∨ m.turn = .own →
      exec (.mspIssue dir id) s = .next (s.setSide dir
        { m with own := rest, issuedOwn := m.issuedOwn ++ [{ id := id, access := a, timedOut := false }],
                 turn := .forwarded })) ∧
    (m.forwarded = [] → ¬ownReady → exec (.mspIssue dir id) s = .next s)

/-- Memory's response to the oldest issued forwarded access of an ID goes upstream unchanged if the channel is free, no
response waits there and its request is the oldest of its list, and is otherwise held behind those that wait; the access is no
longer outstanding, and after a write what it held back is handed over (R4, R6, R19, R53). That a whole response takes the
channel at once, and that the command says whether the channel is free, is the model's choice (notes/assumptions/6.md). -/
def Obligations.ForwardedResponsesPassUpstream : Prop :=
  ∀ (s : State) (id : InitId) (resp : MemResp) (busy : Bool) (f : Forwarded) (u : Unanswered) (more : List Unanswered),
    s.inReset = false →
    let dir := respDir resp
    (s.side dir).issued.find? (fun g => decide (g.req.header.id = id)) = some f →
    (∀ beats, resp = .read beats → beats.length = f.req.header.len) →
    s.responseList id dir = u :: more →
    let t := s.setSide dir
      { s.side dir with issued := (s.side dir).issued.filter fun g => decide (g.arrival ≠ f.arrival) }
    let given := State.setUp { t with host := { t.host with
        unanswered := t.host.unanswered.filter fun v => decide (v.arrival ≠ u.arrival) } } dir
      { s.up dir with channel := some { id := id, resp := resp } }
    let kept := t.setUp dir { s.up dir with waiting := (s.up dir).waiting ++ [{ id := id, resp := resp }] }
    let goes := busy = false ∧ (s.up dir).waiting = [] ∧ u.mark = .forwarded
    (goes → (dir = .read → exec (.forwardedResponse id resp busy) s = .next given) ∧
      (dir = .write → exec (.forwardedResponse id resp busy) s = .next given.releaseHeld)) ∧
    (¬goes → (dir = .read → exec (.forwardedResponse id resp busy) s = .next kept) ∧
      (dir = .write → exec (.forwardedResponse id resp busy) s = .next kept.releaseHeld))

/-- The head of a response list is answered: a refused write with one ERROR, a refused read with as many zero beats of ERROR
as its length, a forwarded request with the response that has waited longest if it is its own; a held head waits. A response
for an ID that no access holds changes nothing (R4, R6, R19). That a whole response takes the channel at once, and that the
command names the list, is the model's choice (notes/assumptions/6.md). That UPSTREAM_RESPONSE at a held head, and
ABSORBED_RESPONSE for an ID that some access holds, change nothing is the model's choice too (notes/assumptions/1.md). -/
def Obligations.UpstreamAndAbsorbedResponses : Prop :=
  ∀ (s : State) (dir : Dir) (id : InitId) (u : Unanswered) (more : List Unanswered), s.inReset = false →
    (∀ i : DownId, exec (.absorbedResponse dir i) s = .next s) ∧
    (s.responseList id dir = u :: more →
      let t : State := { s with host := { s.host with
        unanswered := s.host.unanswered.filter fun v => decide (v.arrival ≠ u.arrival) } }
      (u.mark = .refused → dir = .write → exec (.upstreamResponse dir id) s = .next
        (t.setUp dir { s.up dir with channel := some { id := id, resp := .write .error } })) ∧
      (u.mark = .refused → dir = .read → exec (.upstreamResponse dir id) s = .next
        (t.setUp dir { s.up dir with
          channel := some { id := id, resp := .read (List.replicate u.len { code := .error, data := 0#64 }) } })) ∧
      (u.mark = .forwarded → ∀ r later, (s.up dir).waiting = r :: later → r.id = id →
        exec (.upstreamResponse dir id) s = .next (t.setUp dir { waiting := later, channel := some r })) ∧
      (u.mark = .held → exec (.upstreamResponse dir id) s = .next s))

/-- A response for a timed-out own access is absorbed: its ID is freed, LATE_RESPONSES counted, a LATE_RESPONSE record
enqueued with the access's domain, address and position and the code that came, and what the ID held back is handed over
(R159). Of codes that differ from beat to beat the first that is not OKAY is recorded: the model's choice
(notes/assumptions/20.md). -/
def Obligations.LateResponsesAbsorbed : Prop :=
  ∀ (s : State) (dir : Dir) (id : DownId) (codes : List Code) (i : IssuedOwn), s.inReset = false →
    (s.side dir).IdsDistinct → i ∈ (s.side dir).issuedOwn → i.id = id → i.timedOut = true →
    let t := s.setSide dir { s.side dir with issuedOwn := (s.side dir).issuedOwn.filter fun j => decide (j.id ≠ id) }
    let g : State := { t with globals := s.globals.set 2 (s.globals[2] + 1#32) }
    ∃ code : Code, ((∀ c ∈ codes, c = .okay) → code = .okay) ∧
      (∀ before c after, codes = before ++ c :: after → (∀ b ∈ before, b = .okay) → c ≠ .okay → code = c) ∧
      exec (.lateResponse dir id codes) s = .next (State.releaseHeld (g.enqueueFault
        { kind := .lateResponse, stamp := s.time.tick, domain := some i.access.domain, initiator := none,
          address := some i.access.addr, position := i.access.position, code := some code }))

/-- The hand-overs of a happening, in the order of R5: the old-line reads and the record writes of the slots in ascending slot
number, then the domains' anchor writes in ascending domain number, then the replay engine's accesses, each exactly if it
waits and its conditions hold, each at the tail of its own list; the slots' two hand-over bits, the domains' anchor jobs and
the walk follow, nothing else changes, and nothing that still waits may go (R5, R29, R53, R57, R82, R110, R121, R123, R131).
That they are handed over at this moment is the model's choice (notes/assumptions/4.md), and that a replay write waits for an
earlier one is deduced (notes/assumptions/12.md). -/
def Obligations.ReleaseHandsOverWhatIsClear : Prop :=
  ∀ s : State,
    let t := s.releaseHeld
    let deadline := s.deadlineIn s.time.memTimeout
    let heldAnchor := fun d => match (s.dom d).anchor with
      | .held e _ => if s.anchorClear d then some (anchorWrite d (s.dom d) e deadline) else none
      | _ => none
    let captureReads := (allSlots.filter s.captureReadReady).map fun k => captureRead k (s.slot k)
    let recordWrites := (allSlots.filter s.recordWriteReady).map fun k =>
      recordWrite k (s.slot k) (s.dom (s.slot k).domain).config
    let anchorWrites := allDoms.filterMap heldAnchor
    (∃ anchorReads recordReads replayWrites : List OwnAccess,
      t = { s with
        slots := t.slots
        domains := t.domains
        replay := { s.replay with walk := t.replay.walk }
        mem := {
          reads := { s.mem.reads with own := s.mem.reads.own ++ captureReads ++ anchorReads ++ recordReads }
          writes := { s.mem.writes with own := s.mem.writes.own ++ recordWrites ++ anchorWrites ++ replayWrites } } } ∧
      (s.replay.walk = none → t.replay.walk = none ∧ anchorReads = [] ∧ recordReads = [] ∧ replayWrites = []) ∧
      (∀ w, s.replay.walk = some w → ∃ v : Walk, t.replay.walk = some v ∧
        v = { w with phase := v.phase, buffer := v.buffer, writeOut := v.writeOut, readOut := v.readOut,
                     cursor := v.cursor } ∧
        let c := (s.dom w.domain).config
        let starts := w.phase = .anchorRead .waiting ∧ s.anchorIdHeld w.domain = false ∧ s.areaWriteOut w.domain = false
        let goes := fun b : Buffered =>
          s.lineWriteOut (recordLine b.record) = false ∧ w.writeOut = none ∧ s.replayIdHeld = false
        (starts → anchorReads = [anchorRead w.domain c false deadline] ∧ v.phase = .anchorRead .slot0) ∧
        (¬starts → anchorReads = [] ∧ v.phase = w.phase) ∧
        (∀ b, w.buffer = some b →
          (goes b → replayWrites = [replayWrite w.domain b] ∧ v.buffer = none ∧ v.writeOut = some b.position) ∧
          (¬goes b → replayWrites = [] ∧ v.buffer = w.buffer ∧ v.writeOut = w.writeOut)) ∧
        (w.buffer = none → replayWrites = [] ∧ v.buffer = none ∧ v.writeOut = w.writeOut) ∧
        (∀ k, w.phase = .walk → w.readOut = none → v.buffer = none → w.cursor = some k →
          recordReads = [recordRead w.domain c k deadline] ∧ v.readOut = some k ∧
            v.cursor = if k = 0 then none else some (k - 1)) ∧
        (w.phase ≠ .walk ∨ w.readOut ≠ none ∨ v.buffer ≠ none ∨ w.cursor = none →
          recordReads = [] ∧ v.readOut = w.readOut ∧ v.cursor = w.cursor))) ∧
    (∀ k, t.slot k = { s.slot k with
      readIssued := (s.slot k).readIssued || s.captureReadReady k
      writeHanded := (s.slot k).writeHanded || s.recordWriteReady k }) ∧
    (∀ d,
      (∀ e r, (s.dom d).anchor = .held e r → s.anchorClear d = true →
        t.dom d = { s.dom d with anchor := .sent e r }) ∧
      ((∀ e r, (s.dom d).anchor ≠ .held e r) ∨ s.anchorClear d = false → t.dom d = s.dom d)) ∧
    (∀ k, s.captureReadReady k = true ↔ (s.slot k).state = .readOld ∧ (s.slot k).readIssued = false ∧
      s.lineWriteOut (s.slot k).line = false ∧ s.lateReplayTo (s.slot k).line = false) ∧
    (∀ k, s.recordWriteReady k = true ↔ (s.slot k).state = .writeRecord ∧ (s.slot k).writeHanded = false ∧
      s.lateRecordTo (recordAddr (s.dom (s.slot k).domain).config (s.slot k).position) = false) ∧
    (∀ d, s.anchorClear d = true ↔ s.sweepPending d = false ∧
      ((s.dom d).state = .formatting → s.areaWriteOut d = false) ∧
      ((s.dom d).state ≠ .formatting → s.anchorIdHeld d = false)) ∧
    (∀ k, t.captureReadReady k = false ∧ t.recordWriteReady k = false) ∧
    (∀ d e r, (t.dom d).anchor = .held e r → t.anchorClear d = false) ∧
    t.handAnchorRead = t ∧ t.handReplayWrite = t ∧ t.issueRecordRead = t

/-! ### Evaluation, captures and the line filter -/

/-- The lines a request touches: those of the bytes its beats address, the strobed ones only for a write, in ascending order
and each once; the ranges of the beats are those of INCR, FIXED and WRAP bursts (R2). -/
def Obligations.RequestTouchesLines : Prop :=
  ∀ q : Request,
    let h := q.header
    let size := beatBytes h.size
    let first := h.addr.toNat
    let aligned := first / size * size
    let inBeat := fun (k b : Nat) =>
      (h.burst = .incr ∧ k = 0 ∧ first ≤ b ∧ b < aligned + size) ∨
      (h.burst = .incr ∧ 0 < k ∧ aligned + k * size ≤ b ∧ b < aligned + (k + 1) * size) ∨
      (h.burst = .fixed ∧ first ≤ b ∧ b < aligned + size) ∨
      (h.burst = .wrap ∧
        let span := h.len * size
        let start := first / span * span + (first % span + k * size) % span
        start ≤ b ∧ b < start + size)
    (touchedLines q).Pairwise (fun l m => l < m) ∧
    (q.kind = .read → ∀ l, l ∈ touchedLines q ↔ ∃ k b, k < h.len ∧ inBeat k b ∧ l = BitVec.ofNat 34 (b / 64)) ∧
    (q.kind = .write → q.data.length = h.len → ∀ l, l ∈ touchedLines q ↔
      ∃ k b w, q.data[k]? = some w ∧ inBeat k b ∧ w.strobes.getLsbD (b % 8) = true ∧ l = BitVec.ofNat 34 (b / 64))

/-- The decision on a request by its domain's state: ORDER before all else; PASS treatment without a domain; and R15's table
for reads and for writes, the carried entries of a drain included (R11, R15, R18, R32, R61). -/
def Obligations.EvaluationByDomainState : Prop :=
  ∀ (s : State) (e : Entry),
    let behind := ∃ x ∈ s.hold, x.req.header.id = e.req.header.id ∧ x.req.kind = e.req.kind ∧ x.arrival < e.arrival
    (behind → s.decision e = .hold .order [] e.carried) ∧
    (¬behind → e.domain = none → s.decision e = .forward 0) ∧
    (¬behind → ∀ d, e.domain = some d →
      let x := s.dom d
      let rolls := x.state = .formatting ∨ x.state = .recovering ∨ x.state = .rolling ∨
        (x.state = .draining ∧ x.pending = .rollback)
      (e.req.kind = .read →
        (rolls → s.decision e = .hold .roll [] false) ∧ (¬rolls → s.decision e = .forward 0)) ∧
      (e.req.kind = .write →
        (x.state = .off → s.decision e = .refuseOff) ∧
        (x.state = .broken → s.decision e = .forward 0) ∧
        (x.state = .committing → s.decision e = .hold .drain [] false) ∧
        (x.state = .openState → s.decision e = s.writePath d e false) ∧
        (rolls → x.state = .draining → e.carried = false → s.decision e = .hold .roll [] false) ∧
        (rolls → x.state ≠ .draining → s.decision e = .hold .roll [] false) ∧
        (¬rolls → x.state = .draining → e.carried = false → s.decision e = .hold .drain [] false) ∧
        (x.state = .draining → e.carried = true → x.brokenMark = true → s.decision e = .forward 0) ∧
        (x.state = .draining → e.carried = true → x.brokenMark = false → s.decision e = s.writePath d e true)))

/-- The decision on a write in the capture path, by its uncovered lines: none forwards it, with the hits that count; one
under capture waits LINE; a carried entry that needs slots waits DRAIN; then the space check decides by the policy, and the
slot check before the allocation (R16, R32, R45, R46, R50, R51, R52). -/
def Obligations.CapturePathDecides : Prop :=
  ∀ (s : State) (d : DomId) (e : Entry) (carried : Bool) (lines : List Line),
    lines = (touchedLines e.req).filter (fun l => s.filterHit d l == false) →
    let x := s.dom d
    let under := ∃ l ∈ lines, ∃ k, (s.slot k).state ≠ .free ∧ (s.slot k).line = l
    let free := (allSlots.filter fun k => decide ((s.slot k).state = .free)).length
    (lines = [] → s.writePath d e carried =
      .forward ((touchedLines e.req).filter fun l => decide (l ∉ e.own)).length) ∧
    (under → s.writePath d e carried = .hold .line lines carried) ∧
    (lines ≠ [] → ¬under →
      (carried = true → s.writePath d e carried = .hold .drain lines false) ∧
      (carried = false →
        (x.config.capacity < x.occupancy + lines.length →
          (x.config.policy = .stall → s.writePath d e carried = .hold .space lines false) ∧
          (x.config.policy = .refuse → s.writePath d e carried = .refuseFull) ∧
          (x.config.policy = .breaks → s.writePath d e carried = .breakForward)) ∧
        (x.occupancy + lines.length ≤ x.config.capacity →
          (free < lines.length → s.writePath d e carried = .hold .slot lines false) ∧
          (lines.length ≤ free → s.writePath d e carried = .allocate lines))))

/-- What each decision does to a request: a forwarding puts it into the forwarded list and counts its filter hits in its
domain; a refusal counts REFUSED, and with the journal full enqueues JOURNAL_FULL; the BREAK policy enqueues JOURNAL_FULL,
breaks the domain and forwards; an allocation makes it wait CAPTURE with its uncovered lines, which join its own lines; a hold
gives it its wait. A request that stays keeps its place if it was held, and otherwise takes the tail of the queue with the
deadline of R95, counted in HELD if it has a domain (R48, R51, R52, R88, R90, R93, R94, R95). -/
def Obligations.DecisionsCarriedOut : Prop :=
  (∀ (s : State) (e : Entry),
    let tail : State := { s with hold := s.hold ++ [{ e with deadline := s.deadlineIn s.time.holdTimeout }] }
    s.replaceEntry e = { s with hold := s.hold.map fun x => if x.arrival = e.arrival then e else x } ∧
    (e.domain = none → s.enqueueEntry e = tail) ∧ (∀ d, e.domain = some d → s.enqueueEntry e = tail.count d .held 1)) ∧
  (∀ (s : State) (e : Entry) (keep : State → Entry → State),
    let out := s.without e
    (∀ w ls c,
      s.carryOut keep e (.hold w ls c) = keep s { e with wait := w, uncovered := ls, carried := c }) ∧
    s.carryOut keep e (.forward 0) = out.sent e ∧
    (∀ d, e.domain = some d →
      let full := requestFault .journalFull s.time.tick (some d) e
      (∀ n, 0 < n → s.carryOut keep e (.forward n) = (out.sent e).count d .filterHits n) ∧
      s.carryOut keep e .refuseOff = (out.marked e.arrival .refused).count d .refused 1 ∧
      s.carryOut keep e .refuseFull = ((out.marked e.arrival .refused).count d .refused 1).enqueueFault full ∧
      s.carryOut keep e .breakForward = State.sent (State.requestSweep (State.raise
        ((out.enqueueFault full).setDom d { s.dom d with state := .broken }) (.broken d)) d) e ∧
      (∀ region lines, e.region = some region →
        s.carryOut keep e (.allocate lines) = keep (s.allocateSlots d region lines)
          { e with wait := .capture, uncovered := lines, own := e.own ++ lines.filter (fun l => decide (l ∉ e.own)),
                   carried := false })))

/-- An allocation gives the lowest line the lowest FREE slot and the lowest free position, and so on upward; it reserves as
many positions and slots; where that reaches the high mark with the pressure bit 0, the bit rises, PRESSURE[d] is raised and
PRESSURE_EVENTS counted, and otherwise no flag and no counter moves; each old-line read goes unless a forwarded write to the
line is outstanding or a timed-out replay write to it holds an ID (R48, R49, R53). -/
def Obligations.AllocationPairsLowestFirst : Prop :=
  ∀ (s : State) (d : DomId) (region : Fin 16) (lines : List Line) (free : List SlotId),
    free = allSlots.filter (fun k => decide ((s.slot k).state = .free)) → lines.length ≤ free.length →
    let t := s.allocateSlots d region lines
    let x := s.dom d
    let taken := free.take lines.length
    let goes := fun l => s.lineWriteOut l = false ∧ s.lateReplayTo l = false
    (∀ (j : Nat) (k : SlotId) (l : Line), free[j]? = some k → lines[j]? = some l →
      ∃ go : Bool, (go = true ↔ goes l) ∧
        t.slot k = { s.slot k with
          state := .readOld, domain := d, line := l, region := region, position := x.occupancy + j, epoch := x.epoch,
          stamp := s.time.tick, readIssued := go, writeHanded := false,
          deadline := s.deadlineIn s.time.memTimeout }) ∧
    (∀ k, k ∉ taken → t.slot k = s.slot k) ∧
    (t.dom d).occupancy = x.occupancy + lines.length ∧ (t.dom d).slotsInUse = x.slotsInUse + lines.length ∧
    ((t.dom d).pressure = true ↔ x.pressure = true ∨ x.config.highMark ≤ x.occupancy + lines.length) ∧
    (x.pressure = false → x.config.highMark ≤ x.occupancy + lines.length → t.flag (.pressure d) = true ∧
      ∃ u : State, u = (State.raise (s.setDom d { x with
          occupancy := x.occupancy + lines.length, slotsInUse := x.slotsInUse + lines.length, pressure := true })
        (.pressure d)).count d .pressureEvents 1 ∧ t.dom d = u.dom d ∧ t.faults = u.faults) ∧
    (x.pressure = true ∨ x.occupancy + lines.length < x.config.highMark →
      t.dom d = { x with occupancy := x.occupancy + lines.length, slotsInUse := x.slotsInUse + lines.length } ∧
      t.faults = s.faults) ∧
    (∀ o, o ≠ d → t.dom o = s.dom o) ∧ t.hold = s.hold ∧ t.mem.writes = s.mem.writes ∧
    let going := taken.filter fun k => !s.lineWriteOut (t.slot k).line && !s.lateReplayTo (t.slot k).line
    t.mem.reads =
      { s.mem.reads with own := s.mem.reads.own ++ (going.map fun k => captureRead k (t.slot k)) }

/-- A happening's work list, step by step to its end. Each step takes the lowest arrival sequence out of the list and carries
out the decision on that entry under the state as it stands; if the entry leaves the queue, the ORDER waiters of its ID and
direction join the list, and if it breaks its domain, so do the domain's entries that wait CAPTURE, LINE, SLOT or SPACE,
except those already re-evaluated under this happening; the list is otherwise as it was. At the end no held entry is in the
list. More steps than the model's bound change nothing, and no re-evaluation adds an entry to the hold queue or changes the
order of those that stay (R52, R60, R85, R90, R91). -/
def Obligations.WorkListRunsEmpty : Prop :=
  (∀ (s : State) (todo : List Nat), s.HoldOrdered →
    let step := fun x y : WorkList =>
      ∃ e ∈ x.state.hold, e.arrival ∈ x.left ∧
        (∀ o ∈ x.state.hold, o.arrival ∈ x.left → e.arrival ≤ o.arrival) ∧
        y.state = x.state.carryOut State.replaceEntry e (x.state.decision e) ∧ y.seen = e.arrival :: x.seen ∧
        let leaves := ∀ o ∈ y.state.hold, o.arrival ≠ e.arrival
        let breaks := fun d => e.domain = some d ∧ x.state.decision e = .breakForward
        ∀ a, a ∈ y.left ↔
          (a ∈ x.left ∧ a ≠ e.arrival) ∨ (leaves ∧ a ∈ y.state.behind [e]) ∨
            (∃ d, breaks d ∧ a ∈ y.state.waiting d [.capture, .line, .slot, .space] ∧ a ∉ y.seen)
    ∃ left seen,
      Relation.ReflTransGen step { left := todo, seen := [], state := s }
        { left := left, seen := seen, state := s.reevaluate todo } ∧
      ∀ e ∈ (s.reevaluate todo).hold, e.arrival ∉ left) ∧
  (∀ (s : State) (todo : List Nat),
    (∀ n, workBound s.hold.length ≤ n → State.workList n todo [] s = s.reevaluate todo) ∧
    ((s.reevaluate todo).hold.map (·.arrival)).Sublist (s.hold.map (·.arrival)))

/-- The set index of a line, when an entry is stale, and when a line hits (R70, R71, R72). -/
def Obligations.FilterIndexAndStaleness : Prop :=
  (∀ l : Line, (setIndex l).val =
    (l.toNat % 512) ^^^ (l.toNat / 512 % 512) ^^^ (l.toNat / 262144 % 512)) ∧
  (∀ (s : State) (e : FilterEntry), s.stale e = true ↔
    e.parity ≠ (s.dom e.domain).epoch.getLsbD 0 ∨ (s.dom e.domain).brokenMark = true ∨
      (s.dom e.domain).state = .off ∨ (s.dom e.domain).state = .formatting ∨
      (s.dom e.domain).state = .recovering ∨ (s.dom e.domain).state = .broken) ∧
  (∀ (s : State) (d : DomId) (l : Line), s.filterHit d l = true ↔
    ∃ w : Fin 4, (s.filterSet (setIndex l)).ways[w].valid = true ∧ (s.filterSet (setIndex l)).ways[w].domain = d ∧
      (s.filterSet (setIndex l)).ways[w].line = l ∧ s.stale (s.filterSet (setIndex l)).ways[w] = false)

/-- An insertion takes the way that holds the pair already, or else the lowest invalid way, or else the lowest stale way, or
else the way of the pointer, which advances, with one added to EVICTIONS of the domain that loses its live entry; afterwards
the line hits for a domain whose entries of that parity are live (R73, R74, R75). -/
def Obligations.InsertionChoosesWay : Prop :=
  ∀ (s : State) (d : DomId) (l : Line) (parity : Bool),
    let i := setIndex l
    let f := s.filterSet i
    let e : FilterEntry := { valid := true, domain := d, line := l, parity := parity }
    let there := fun w : Fin 4 => f.ways[w].valid = true ∧ f.ways[w].domain = d ∧ f.ways[w].line = l
    let put := fun w : Fin 4 => s.setFilterSet i { f with ways := f.ways.set w e }
    (∀ w, there w → (∀ v, v < w → ¬there v) → s.filterInsert d l parity = put w) ∧
    ((∀ w, ¬there w) →
      (∀ w, f.ways[w].valid = false → (∀ v, v < w → f.ways[v].valid = true) →
        s.filterInsert d l parity = put w) ∧
      ((∀ w : Fin 4, f.ways[w].valid = true) →
        (∀ w, s.stale f.ways[w] = true → (∀ v, v < w → s.stale f.ways[v] = false) →
          s.filterInsert d l parity = put w) ∧
        ((∀ w : Fin 4, s.stale f.ways[w] = false) →
          s.filterInsert d l parity =
            (s.setFilterSet i { ways := f.ways.set f.pointer e, pointer := f.pointer + 1 }).count
              f.ways[f.pointer].domain .evictions 1))) ∧
    (s.stale e = false → (s.filterInsert d l parity).filterHit d l = true)

/-- An increment of a counter: modulo 2^32 under WRAP, up to 2^32 − 1 under SATURATE; HALF[d] is raised exactly at a rise of
the half-point bit with the enable 1; nothing else changes. A global counter wraps and raises nothing (R139, R141, R142). -/
def Obligations.CountersWrapSaturateAndHalf : Prop :=
  (∀ (s : State) (d : DomId) (c : Counter) (n : Nat),
    let x := s.dom d
    let v := x.counter c
    ∃ after : Count,
      (x.config.counterMode = .wrap → after.toNat = (v.toNat + n) % 2 ^ 32) ∧
      (x.config.counterMode = .saturate → after.toNat = min (v.toNat + n) (2 ^ 32 - 1)) ∧
      let t := s.setDom d { x with counters := x.counters.set (counterIndex c) after }
      (x.config.halfEnable = true ∧ v.toNat < 2 ^ 31 ∧ 2 ^ 31 ≤ after.toNat → s.count d c n = t.raise (.half d)) ∧
      (¬(x.config.halfEnable = true ∧ v.toNat < 2 ^ 31 ∧ 2 ^ 31 ≤ after.toNat) → s.count d c n = t)) ∧
  (∀ (s : State) (g : GlobalCounter),
    s.countGlobal g = { s with globals := s.globals.set (globalIndex g) (s.globals[globalIndex g] + 1#32) })

/-- A journal record and an anchor line read back as they were written: 128 and 64 bytes; a record is valid for the domain
and the epoch of its slot and for no others, and names its line, position and old contents; an anchor line is valid for its
domain and no other, with its epoch and capacity; the line of FORMAT's invalidating write is valid for no domain (R56, R122,
R175, R176). -/
def Obligations.RecordReadsBackValid : Prop :=
  (∀ k : Slot, k.buffer.length = 64 → k.position < 65536 →
    (recordOf k).length = 128 ∧ recordLine (recordOf k) = k.line ∧ recordContents (recordOf k) = k.buffer ∧
    fieldAt (recordOf k) 6 2 = k.position ∧ fieldAt (recordOf k) 5 1 = k.region.val ∧
    fieldAt (recordOf k) 12 4 = k.stamp.toNat ∧
    ∀ (d : DomId) (e : Epoch), recordValid (recordOf k) d e = true ↔ d = k.domain ∧ e = k.epoch) ∧
  (∀ (d : DomId) (e : Epoch) (capacity : Nat), capacity < 2 ^ 32 →
    (anchorLine d e capacity).length = 64 ∧ anchorEpoch (anchorLine d e capacity) = e ∧
    anchorCapacity (anchorLine d e capacity) = capacity ∧
    (∀ o : DomId, anchorValid (anchorLine d e capacity) o = true ↔ o = d)) ∧
  (∀ d : DomId, anchorValid (List.replicate 64 0#8) d = false)

/-! ### Time -/

/-- A tick advances the counter and starts the divider count again; a held entry whose deadline equals the tick counter leaves
the queue refused, oldest first, counted in HOLD_TIMEOUTS of its domain and recorded as a fault, and the ORDER waiters behind
it are re-evaluated (R95, R96, R156). That a tick waits for the timeouts of the advance before it is the model's choice
(notes/assumptions/3.md). That HOLD_TIMEOUT with no entry due changes nothing is the model's choice too
(notes/assumptions/1.md). -/
def Obligations.TicksAndHoldTimeouts : Prop :=
  ∀ s : State, s.inReset = false →
    (s.timeoutsLeft = true → exec .tick s = .next s) ∧
    (s.timeoutsLeft = false →
      exec .tick s = .next { s with time := { s.time with divCount := 0, tick := s.time.tick + 1#32 } }) ∧
    ((∀ e ∈ s.hold, e.deadline ≠ some s.time.tick) → exec .holdTimeout s = .next s) ∧
    (∀ before e after, s.hold = before ++ e :: after → (∀ x ∈ before, x.deadline ≠ some s.time.tick) →
      e.deadline = some s.time.tick → s.HoldOrdered →
      let gone : State := { s with
        hold := before ++ after
        host := { s.host with
          unanswered := s.host.unanswered.map fun u => if u.arrival = e.arrival then { u with mark := .refused } else u } }
      let record : FaultRecord :=
        { kind := .holdTimeout, stamp := s.time.tick, domain := e.domain, initiator := some e.req.header.id,
          address := some e.req.header.addr, position := none, code := none }
      let behind := fun u : State => (u.hold.filter fun x => decide (x.wait = .order) &&
        (decide (e.req.header.id = x.req.header.id) && decide (e.req.kind = x.req.kind))).map (·.arrival)
      (e.domain = none → ∃ u : State, u = gone.enqueueFault record ∧
        exec .holdTimeout s = .next (u.reevaluate (behind u))) ∧
      (∀ d, e.domain = some d → ∃ u : State, u = (gone.count d .holdTimeouts 1).enqueueFault record ∧
        exec .holdTimeout s = .next (u.reevaluate (behind u))))

/-- A pending own access whose deadline equals the tick counter is withdrawn from the own list or marked timed out with its ID
kept, and its owner takes the failure: the capture, the anchor write, the walk's read, the replay write, or the write still in
the record buffer (R157, R158). That each is taken by a command of its own, which names the access, is the model's choice
(notes/assumptions/3.md and 26.md). -/
def Obligations.MemTimeouts : Prop :=
  ∀ s : State, s.inReset = false →
    let now := some s.time.tick
    (∀ k, (s.slot k).state = .readOld → (s.slot k).deadline = now →
      exec (.memTimeout (.captureRead k)) s = .next
        ((s.timeOutOwn .read fun a => decide (a.owner = .captureRead k)).captureFails k .captureFailed)) ∧
    (∀ k, (s.slot k).state = .writeRecord → (s.slot k).deadline = now →
      exec (.memTimeout (.recordWrite k)) s = .next
        ((s.timeOutOwn .write fun a => decide (a.owner = .recordWrite k)).captureFails k .recordFailed)) ∧
    (∀ d a use, s.findOwn .write (fun x => isAnchorWriteOf d x && decide (x.deadline = now)) = some a →
      a.owner = .anchorWrite use →
      exec (.memTimeout (.anchorWrite d)) s = .next
        ((s.timeOutOwn .write fun x => isAnchorWriteOf d x && decide (x.deadline = now)).anchorFails d use a.addr)) ∧
    (∀ a w, s.findOwn .read (fun x => isWalkRead x && decide (x.deadline = now)) = some a →
      s.replay.walk = some w →
      let t := s.timeOutOwn .read fun x => isWalkRead x && decide (x.deadline = now)
      (a.owner = .recordRead → ∀ position, a.position = some position →
        exec (.memTimeout .walkRead) s = .next
          ((t.recordReadFails { w with readOut := none } position).advanceWalk)) ∧
      (a.owner ≠ .recordRead → exec (.memTimeout .walkRead) s = .next (t.anchorReadEnds w none))) ∧
    (∀ a w position,
      s.findOwn .write (fun x => decide (x.owner = .replayWrite) && decide (x.deadline = now)) = some a →
      s.replay.walk = some w → a.position = some position →
      exec (.memTimeout .replayWrite) s = .next
        (((s.timeOutOwn .write fun x => decide (x.owner = .replayWrite) && decide (x.deadline = now)).replayWriteFails
          { w with writeOut := none } position a.addr).advanceWalk)) ∧
    (∀ w b, s.replay.walk = some w → w.buffer = some b → b.deadline = now →
      exec (.memTimeout .replayBuffer) s = .next
        ((s.replayWriteFails { w with buffer := none } b.position (lineAddr (recordLine b.record))).advanceWalk)) ∧
    (∀ (dir : Dir) (p : OwnAccess → Bool), (s.timeOutOwn dir p).side dir = { s.side dir with
      own := (s.side dir).own.filter fun a => !p a
      issuedOwn := (s.side dir).issuedOwn.map fun i =>
        if i.timedOut = false ∧ p i.access = true then { i with timedOut := true } else i })

/-! ### Domain operations -/

/-- The checks of a domain operation in their order: the domain number and the operation code, a transient state, the table
of allowed operations with the last epoch, the capacity and the overlap check; a refused operation changes nothing but the
reply (R25, R27, R172). -/
def Obligations.DomainOpsDecidedInOrder : Prop :=
  (∀ (s : State) (b code : Byte), s.Receives 0x0A#8 [b, code] → code = 0 ∨ 5 < code.toNat →
    exec (.domainOp b code) s = .next (s.reply 0x0A#8 [b, code] .arg [])) ∧
  ∀ (s : State) (b : Byte) (op : DomOp), s.Receives 0x0A#8 (opArgs op b) →
    let run := exec (opCommand op b) s
    let answers := fun status => run = .next (s.reply 0x0A#8 (opArgs op b) status [])
    (4 ≤ b.toNat → answers .arg) ∧
    (∀ d : DomId, b.toNat = d.val →
      let x := s.dom d
      let busy := x.state = .formatting ∨ x.state = .recovering ∨ x.state = .draining ∨ x.state = .committing ∨
        x.state = .rolling
      let leaves := op = .format ∨ op = .recover
      let allowed := (leaves ∧ x.state = .off) ∨ (op = .rollback ∧ x.state = .openState) ∨
        ((op = .commit ∨ op = .close) ∧ (x.state = .openState ∨ x.state = .broken))
      let journal := fun i : Fin 16 => s.regions[i].valid = true ∧ s.regions[i].mode = .journal
      let overlap :=
        (∃ i : Fin 16, journal i ∧ regionMeetsAreas s.regions[i] x.config = true) ∨
        (∃ (i : Fin 16) (o : DomId), journal i ∧ s.regions[i].domain = d ∧ o ≠ d ∧ (s.dom o).state ≠ .off ∧
          regionMeetsAreas s.regions[i] (s.dom o).config = true) ∨
        (∃ o : DomId, o ≠ d ∧ (s.dom o).state ≠ .off ∧ areasOverlap x.config (s.dom o).config = true)
      (busy → answers .busy) ∧
      (¬busy → ¬allowed ∨ ((op = .commit ∨ op = .rollback) ∧ x.epoch = BitVec.allOnes 32) → answers .state) ∧
      (leaves → x.state = .off → x.config.capacity = 0 ∨ overlap → answers .arg))

/-- A FORMAT or a RECOVER that passes its checks takes the domain out of OFF, with last operation and last result set and
epoch and configuration kept. The held writes that meet its areas are refused in arrival order, each marked refused, counted
in GUARD_REFUSED and recorded as GUARD_WRITE, the ORDER waiters behind them are re-evaluated, and no held write meets its
areas any more. FORMAT then prepares the anchor of epoch 1; RECOVER claims the replay engine, or joins its wait list (R13,
R25, R28, R29, R41, R91, R94, R120, R131). That the work list runs after all the refusals is deduced
(notes/assumptions/25.md). -/
def Obligations.FormatAndRecoverLeaveOff : Prop :=
  ∀ (s : State) (b : Byte) (d : DomId), b.toNat = d.val → (s.dom d).state = .off →
    (s.dom d).config.capacity ≠ 0 → s.overlapPasses d = true →
    let x := s.dom d
    let clear := fun t : State => ∀ e ∈ t.hold, e.req.kind = .write → meetsAreas e.req.header x.config = false
    let met := s.hold.filter fun e => decide (e.req.kind = .write) && meetsAreas e.req.header x.config
    let refuse := fun (t : State) (e : Entry) =>
      ((((t.without e).marked e.arrival .refused).countGlobal .guardRefused).enqueueFault
        (requestFault .guardWrite t.time.tick (some d) e))
    let left := fun (op : DomOp) (st : DomState) =>
      met.foldl refuse (s.setDom d { x with state := st, lastOp := some op, lastResult := .ok })
    (s.Receives 0x0A#8 (opArgs .format b) →
      ∃ t u : State, exec (.format b) s = .next t ∧ u = left .format .formatting ∧
        t = ((u.reevaluate (u.behind met)).prepareAnchor d 1#32 .ok).reply 0x0A#8 (opArgs .format b) .ok [] ∧ clear t ∧
        ((t.dom d).anchor = .sent 1#32 .ok ∨ (t.dom d).anchor = .held 1#32 .ok) ∧
        t.dom d = { x with state := .formatting, lastOp := some .format, lastResult := .ok,
                           anchor := (t.dom d).anchor, counters := (t.dom d).counters }) ∧
    (s.Receives 0x0A#8 (opArgs .recover b) →
      ∃ t u : State, exec (.recover b) s = .next t ∧ u = left .recover .recovering ∧
        t = ((u.reevaluate (u.behind met)).claimEngine d).reply 0x0A#8 (opArgs .recover b) .ok [] ∧ clear t ∧
        t.dom d = { x with state := .recovering, lastOp := some .recover, lastResult := .ok,
                           counters := (t.dom d).counters } ∧
        (s.replay.walk = none → s.replay.waiting = [] →
          ∃ w, t.replay.walk = some w ∧ w.kind = .recover ∧ w.domain = d ∧ t.replay.waiting = [] ∧
            (w.phase = .anchorRead .waiting ∨ w.phase = .anchorRead .slot0)) ∧
        (s.replay.walk ≠ none ∨ s.replay.waiting ≠ [] →
          t.replay = { s.replay with waiting := s.replay.waiting ++ [d] }))

/-- A COMMIT, a ROLLBACK or a CLOSE accepted while slots are in use begins a drain: DRAINING with the operation pending, its
CAPTURE and LINE waiters carried, its SLOT and SPACE waiters waiting DRAIN, and nothing else changed but the reply. The drain
ends when slots in use is zero: pending is none, no entry stays carried, and a COMMIT enters COMMITTING and prepares its
anchor, broken mark or not; a ROLLBACK enters ROLLING, whose walk ends at once with occupancy 0, or with the broken mark ends
FAILED in BROKEN, the mark cleared, BROKEN[d] not raised again and no sweep requested; a CLOSE enters OFF, with a sweep
requested, and ends OK (R25, R28, R32, R33, R34, R38, R92, R120, R127, R128). That "wait DRAIN" is taken literally under a
pending ROLLBACK or CLOSE too is said in notes/assumptions/16.md, that CLOSE's sweep is requested after R34's dealings is the
model's choice (notes/assumptions/30.md). -/
def Obligations.DrainsBeginAndEnd : Prop :=
  (∀ (s : State) (b : Byte) (d : DomId), b.toNat = d.val → (s.dom d).slotsInUse ≠ 0 →
    let x := s.dom d
    let drains := fun (op : DomOp) (p : Pending) =>
      s.Receives 0x0A#8 (opArgs op b) → exec (opCommand op b) s = .next (State.reply { s with
        domains := s.domains.set d { x with state := .draining, pending := p, lastOp := some op, lastResult := .ok }
        hold := s.hold.map (drainEntry d) } 0x0A#8 (opArgs op b) .ok [])
    (x.state = .openState ∨ x.state = .broken →
      (x.epoch ≠ BitVec.allOnes 32 → drains .commit .commit) ∧ drains .close .close) ∧
    (x.state = .openState → x.epoch ≠ BitVec.allOnes 32 → drains .rollback .rollback)) ∧
  (∀ (s : State) (d : DomId), (s.dom d).state = .draining →
    let x := s.dom d
    let now := fun y : Domain =>
      { s with domains := s.domains.set d { y with pending := .none }, hold := s.hold.map (drainedEntry d) }
    (x.slotsInUse ≠ 0 → s.endDrainIfDone d = s) ∧
    (x.slotsInUse = 0 →
      (x.pending = .commit →
        s.endDrainIfDone d = (now { x with state := .committing }).prepareAnchor d (x.epoch + 1#32) .ok) ∧
      (x.pending = .rollback → x.brokenMark = true → ∃ t : State,
        t = (now { x with state := .broken, brokenMark := false, lastResult := .failed, anchor := .idle }).raise (.done d) ∧
        s.endDrainIfDone d = t.reevaluate (t.waiting d [.drain, .roll, .space])) ∧
      (x.pending = .rollback → x.brokenMark = false → x.occupancy = 0 →
        s.endDrainIfDone d = (now { x with state := .rolling }).prepareAnchor d (x.epoch + 1#32) .ok) ∧
      (x.pending = .rollback → x.brokenMark = false → x.occupancy ≠ 0 →
        s.endDrainIfDone d = (now { x with state := .rolling }).claimEngine d) ∧
      (x.pending = .close → ∃ t : State, t = ((now x).enterOff d).requestSweep d ∧
        s.endDrainIfDone d = (t.setDom d { t.dom d with lastResult := .ok, anchor := .idle }).raise (.done d)))) ∧
  (∀ (s : State) (d : DomId), (s.dom d).state ≠ .draining → s.endDrainIfDone d = s)

/-- A COMMIT accepted with no slot in use drains at once and enters COMMITTING: its anchor write for the next epoch, with
R111's slot, is handed over, or is held while a sweep of the domain is pending or an earlier anchor write holds an ID (R25,
R32, R82, R105, R110, R111). That a forwarded write of the domain still to be issued does not hold it is deduced (R107;
notes/assumptions/31.md). -/
def Obligations.CommitEntersCommitting : Prop :=
  ∀ (s : State) (b : Byte) (d : DomId), s.Receives 0x0A#8 (opArgs .commit b) → b.toNat = d.val →
    (s.dom d).slotsInUse = 0 → (s.dom d).state = .openState ∨ (s.dom d).state = .broken →
    (s.dom d).epoch ≠ BitVec.allOnes 32 →
    let x := s.dom d
    let next := x.epoch + 1#32
    let after := fun job : AnchorJob => { s with
      domains := s.domains.set d { x with
        state := .committing, pending := .none, lastOp := some .commit, lastResult := .ok, anchor := job }
      hold := (s.hold.map (drainEntry d)).map (drainedEntry d) }
    (s.sweepPending d = true ∨ s.anchorIdHeld d = true → exec (.commit b) s = .next
      (State.reply (after (.held next .ok)) 0x0A#8 (opArgs .commit b) .ok [])) ∧
    (s.sweepPending d = false → s.anchorIdHeld d = false → exec (.commit b) s = .next
      (State.reply (State.withOwn (after (.sent next .ok))
        { owner := .anchorWrite .commit, domain := d, dir := .write,
          addr := BitVec.ofNat 40 (x.config.anchorBase.toNat + next.toNat % 2 * 64), beats := 8,
          data := anchorLine d next x.config.capacity, position := none,
          deadline := s.deadlineIn s.time.memTimeout }) 0x0A#8 (opArgs .commit b) .ok []))

/-- A ROLLBACK accepted with no slot in use drains at once. With occupancy 0 its walk ends at once and the anchor of the next
epoch is prepared; with an idle replay engine its walk begins at the top record with the walk epoch the domain's; behind
another walk it joins the wait list (R25, R32, R120, R121, R126, R127, R128). A domain in OPEN carries no broken mark
in a run; the end of a marked drain is in `Obligations.DrainsBeginAndEnd`. -/
def Obligations.RollbackEntersRolling : Prop :=
  ∀ (s : State) (b : Byte) (d : DomId), s.Receives 0x0A#8 (opArgs .rollback b) → b.toNat = d.val →
    (s.dom d).slotsInUse = 0 → (s.dom d).state = .openState → (s.dom d).epoch ≠ BitVec.allOnes 32 →
    let x := s.dom d
    let next := x.epoch + 1#32
    let after := fun job : AnchorJob => { s with
      domains := s.domains.set d { x with
        state := .rolling, pending := .none, lastOp := some .rollback, lastResult := .ok, anchor := job }
      hold := (s.hold.map (drainEntry d)).map (drainedEntry d) }
    let answers := fun t : State => exec (.rollback b) s = .next (t.reply 0x0A#8 (opArgs .rollback b) .ok [])
    let deadline := s.deadlineIn s.time.memTimeout
    (x.brokenMark = true → ∃ t, exec (.rollback b) s = .next t ∧ t.flag (.done d) = true ∧
      t.dom d = { x with
        state := .broken, pending := .none, lastOp := some .rollback, lastResult := .failed, brokenMark := false,
        anchor := .idle, counters := (t.dom d).counters }) ∧
    (x.brokenMark = false → x.occupancy = 0 →
      (s.sweepPending d = true ∨ s.anchorIdHeld d = true → answers (after (.held next .ok))) ∧
      (s.sweepPending d = false → s.anchorIdHeld d = false →
        answers (State.withOwn (after (.sent next .ok))
          { owner := .anchorWrite .rollback, domain := d, dir := .write,
            addr := BitVec.ofNat 40 (x.config.anchorBase.toNat + next.toNat % 2 * 64), beats := 8,
            data := anchorLine d next x.config.capacity, position := none, deadline := deadline }))) ∧
    (x.brokenMark = false → x.occupancy ≠ 0 → s.replay.walk = none → s.replay.waiting = [] →
      answers (State.withOwn { after x.anchor with replay := { s.replay with walk := some {
            kind := .rollback, domain := d, phase := .walk, epoch := x.epoch,
            cursor := if x.occupancy = 1 then none else some (x.occupancy - 2), buffer := none,
            readOut := some (x.occupancy - 1), writeOut := none, skips := 0, failures := 0 } } }
        { owner := .recordRead, domain := d, dir := .read,
          addr := BitVec.ofNat 40 (x.config.journalBase.toNat + (x.occupancy - 1) * 128), beats := 16, data := [],
          position := some (x.occupancy - 1), deadline := deadline })) ∧
    (x.brokenMark = false → x.occupancy ≠ 0 → s.replay.walk ≠ none ∨ s.replay.waiting ≠ [] →
      answers { after x.anchor with replay := { s.replay with waiting := s.replay.waiting ++ [d] } })

/-- Entry to OFF clears occupancy, pressure and broken mark, and deals with the domain's held entries in arrival order: a
write is refused and counted in REFUSED, a read not waiting ORDER is forwarded, a read waiting ORDER stays without a domain;
the ORDER waiters behind those that leave are re-evaluated. A CLOSE accepted with no slot in use ends there at once: epoch and
configuration kept, a sweep of the domain pending, DONE[d] raised, no held entry of the domain left and its held writes
refused (R25, R28, R32, R33, R34, R91). That the sweep is requested after the dealings is the model's choice
(notes/assumptions/30.md). That the work list runs after all of them is deduced (notes/assumptions/25.md). -/
def Obligations.CloseEntersOff : Prop :=
  (∀ (s : State) (d : DomId),
    let mine := s.hold.filter fun e => decide (e.domain = some d)
    let deal := fun (t : State) (e : Entry) =>
      if e.req.kind = .write then ((t.without e).marked e.arrival .refused).count d .refused 1
      else if e.wait = .order then
        { t with hold := t.hold.map fun x => if x.arrival = e.arrival then { e with domain := none } else x }
      else (t.without e).sent e
    ∃ u : State, u = mine.foldl deal (s.setDom d { s.dom d with
        state := .off, occupancy := 0, pressure := false, brokenMark := false, anchor := .idle }) ∧
      s.enterOff d = u.reevaluate (u.behind
        (mine.filter fun e => decide (e.req.kind = .write) || decide (e.wait ≠ .order)))) ∧
  (∀ (s : State) (b : Byte) (d : DomId), s.Receives 0x0A#8 (opArgs .close b) → b.toNat = d.val →
    (s.dom d).slotsInUse = 0 → (s.dom d).state = .openState ∨ (s.dom d).state = .broken →
    let x := s.dom d
    let drained : State := { s with
      domains := s.domains.set d { x with
        state := .draining, pending := .none, lastOp := some .close, lastResult := .ok }
      hold := (s.hold.map (drainEntry d)).map (drainedEntry d) }
    ∃ t u : State, exec (.close b) s = .next t ∧ u = (drained.enterOff d).requestSweep d ∧
      t = State.reply (State.raise (u.setDom d { u.dom d with lastResult := .ok, anchor := .idle }) (.done d))
        0x0A#8 (opArgs .close b) .ok [] ∧
      t.dom d = { x with
        state := .off, occupancy := 0, pressure := false, brokenMark := false, pending := .none,
        lastOp := some .close, lastResult := .ok, anchor := .idle, counters := (t.dom d).counters } ∧
      t.flag (.done d) = true ∧ t.sweepPending d = true ∧ (∀ e ∈ t.hold, e.domain ≠ some d) ∧
      (s.HoldOrdered → ∀ e ∈ s.hold, e.domain = some d → e.req.kind = .write →
        ∀ u ∈ t.host.unanswered, u.arrival = e.arrival → u.mark = .refused))

/-- An access that waits is handed over when its conditions hold, and joins the tail of its own list; while a condition
fails, its ISSUE command changes nothing (R29, R53, R57, R82, R110, R123, R131). That the six ISSUE commands hand over what
still waits, and otherwise change nothing, is the model's choice (notes/assumptions/4.md); that a replay write waits while an
earlier one is handed over and unanswered, with an ID or without, is deduced (notes/assumptions/12.md). -/
def Obligations.HeldAccessesHandedOver : Prop :=
  ∀ s : State, s.inReset = false →
    let deadline := s.deadlineIn s.time.memTimeout
    (∀ k, let x := s.slot k
      x.state = .readOld → x.readIssued = false →
      (s.lineWriteOut x.line = false → s.lateReplayTo x.line = false →
        exec (.captureReadIssue k) s = .next (State.withOwn { s with slots := s.slots.set k { x with readIssued := true } }
          { owner := .captureRead k, domain := x.domain, dir := .read, addr := x.line ++ 0#6, beats := 8, data := [],
            position := some x.position, deadline := x.deadline })) ∧
      (s.lineWriteOut x.line = true ∨ s.lateReplayTo x.line = true → exec (.captureReadIssue k) s = .next s)) ∧
    (∀ k, let x := s.slot k
      let addr := BitVec.ofNat 40 ((s.dom x.domain).config.journalBase.toNat + x.position * 128)
      x.state = .writeRecord → x.writeHanded = false →
      (s.lateRecordTo addr = false →
        exec (.recordWriteIssue k) s = .next (State.withOwn { s with slots := s.slots.set k { x with writeHanded := true } }
          { owner := .recordWrite k, domain := x.domain, dir := .write, addr := addr, beats := 16, data := recordOf x,
            position := some x.position, deadline := x.deadline })) ∧
      (s.lateRecordTo addr = true → exec (.recordWriteIssue k) s = .next s)) ∧
    (∀ d e r, let x := s.dom d
      x.anchor = .held e r →
      let go := fun use => State.withOwn { s with domains := s.domains.set d { x with anchor := .sent e r } }
        { owner := .anchorWrite use, domain := d, dir := .write,
          addr := BitVec.ofNat 40 (x.config.anchorBase.toNat + e.toNat % 2 * 64), beats := 8,
          data := anchorLine d e x.config.capacity, position := none, deadline := deadline }
      (x.state = .formatting →
        (s.sweepPending d = false → s.areaWriteOut d = false →
          exec (.formatSlot1Issue d) s = .next (go .formatSlot1)) ∧
        (s.sweepPending d = true ∨ s.areaWriteOut d = true → exec (.formatSlot1Issue d) s = .next s)) ∧
      (x.state = .committing ∨ x.state = .rolling ∨ x.state = .recovering →
        (s.sweepPending d = false → s.anchorIdHeld d = false →
          (x.state = .committing → exec (.anchorWriteIssue d) s = .next (go .commit)) ∧
          (x.state = .rolling → exec (.anchorWriteIssue d) s = .next (go .rollback)) ∧
          (x.state = .recovering → exec (.anchorWriteIssue d) s = .next (go .recover))) ∧
        (s.sweepPending d = true ∨ s.anchorIdHeld d = true → exec (.anchorWriteIssue d) s = .next s))) ∧
    (∀ w, s.replay.walk = some w → w.phase = .anchorRead .waiting →
      (s.anchorIdHeld w.domain = false → s.areaWriteOut w.domain = false →
        exec .anchorReadIssue s = .next (State.withOwn
          { s with replay := { s.replay with walk := some { w with phase := .anchorRead .slot0 } } }
          { owner := .anchorRead false, domain := w.domain, dir := .read, addr := (s.dom w.domain).config.anchorBase,
            beats := 8, data := [], position := none, deadline := deadline })) ∧
      (s.anchorIdHeld w.domain = true ∨ s.areaWriteOut w.domain = true → exec .anchorReadIssue s = .next s)) ∧
    (∀ w b, s.replay.walk = some w → w.buffer = some b →
      let go := State.withOwn
        { s with replay := { s.replay with walk := some { w with buffer := none, writeOut := some b.position } } }
        { owner := .replayWrite, domain := w.domain, dir := .write, addr := recordLine b.record ++ 0#6, beats := 8,
          data := recordContents b.record, position := some b.position, deadline := b.deadline }
      (s.lineWriteOut (recordLine b.record) = false → w.writeOut = none → s.replayIdHeld = false →
        exec .replayWriteIssue s = .next go.issueRecordRead) ∧
      (s.lineWriteOut (recordLine b.record) = true ∨ w.writeOut ≠ none ∨ s.replayIdHeld = true →
        exec .replayWriteIssue s = .next s))

/-- An anchor write answered OKAY sets the epoch it carries, with occupancy and pressure 0. FORMAT then requests a sweep and
hands over its invalidating write; that write's OKAY, and the OKAY of a COMMIT, a ROLLBACK or a RECOVER, leave the domain OPEN
with the operation's last result and DONE[d], a sweep requested and a commit or a rollback counted, and release the domain's
waiters, its entries that wait DRAIN, ROLL or SPACE, in arrival order (R28, R30, R31, R92, R112, R128, R134). -/
def Obligations.OkayAnchorWritesOpenEpochs : Prop :=
  (∀ (s : State) (d : DomId), s.releaseWaiters d = s.reevaluate (s.waiting d [.drain, .roll, .space])) ∧
  ∀ (s : State) (id : DownId) (a : OwnAccess) (e : Epoch) (r : OpResult), s.inReset = false →
    s.pendingOwn .write id = some a →
    let d := a.domain
    let x := s.dom d
    let freed := s.setSide .write
      { s.side .write with issuedOwn := (s.side .write).issuedOwn.filter fun i => decide (i.id ≠ id) }
    let opened : Domain := { x with
      state := .openState, epoch := e, occupancy := 0, pressure := false, anchor := .idle, lastResult := .ok }
    (a.owner = .anchorWrite .formatSlot1 → x.anchor = .sent e r →
      exec (.formatSlot1Response id .okay) s = .next (State.withOwn
        (State.requestSweep (freed.setDom d
          { x with epoch := e, occupancy := 0, pressure := false, anchor := .invalidating }) d)
        { owner := .anchorWrite .formatInvalidate, domain := d, dir := .write, addr := x.config.anchorBase, beats := 8,
          data := List.replicate 64 0#8, position := none, deadline := s.deadlineIn s.time.memTimeout })) ∧
    (a.owner = .anchorWrite .formatInvalidate →
      exec (.formatInvalidateResponse id .okay) s = .next (State.releaseWaiters
        (State.raise (freed.setDom d { x with state := .openState, lastResult := .ok, anchor := .idle }) (.done d)) d)) ∧
    (a.owner = .anchorWrite .commit → x.anchor = .sent e r →
      exec (.commitAnchorResponse id .okay) s = .next (State.releaseWaiters (State.raise (State.count (State.requestSweep
        (freed.setDom d { opened with brokenMark := false }) d) d .commits 1) (.done d)) d)) ∧
    (a.owner = .anchorWrite .rollback → x.anchor = .sent e r →
      exec (.rollbackAnchorResponse id .okay) s = .next (State.releaseWaiters (State.raise (State.count
        (State.requestSweep (freed.setDom d { opened with lastResult := r }) d) d .rollbacks 1) (.done d)) d)) ∧
    (a.owner = .anchorWrite .recover → x.anchor = .sent e r →
      exec (.recoverAnchorResponse id .okay) s = .next (State.releaseWaiters (State.raise
        (State.requestSweep (freed.setDom d opened) d) (.done d)) d))

/-- An anchor or invalidating write that fails frees its ID and enqueues ANCHOR_FAILED; a FORMAT or a RECOVER ends in OFF, a
COMMIT or a ROLLBACK in BROKEN, each with the last result FAILED and DONE[d]; entry to OFF leaves no held entry to the
domain, and entry to BROKEN keeps epoch and occupancy, raises BROKEN[d], requests a sweep and re-evaluates the entries that
wait DRAIN, ROLL or SPACE (R30, R31, R34, R35, R92, R114, R129, R134). What entry to OFF does to the held entries is in
`Obligations.CloseEntersOff`. -/
def Obligations.FailedAnchorWritesEndOperations : Prop :=
  (∀ (s : State) (id : DownId) (code : Code) (a : OwnAccess), s.inReset = false → code ≠ .okay →
    s.pendingOwn .write id = some a →
    let d := a.domain
    let failed := (s.setSide .write
      { s.side .write with
        issuedOwn := (s.side .write).issuedOwn.filter fun i => decide (i.id ≠ id) }).enqueueFault
          { kind := .anchorFailed, stamp := s.time.tick, domain := some d, initiator := none, address := some a.addr,
            position := none, code := none }
    (a.owner = .anchorWrite .formatSlot1 →
      exec (.formatSlot1Response id code) s = .next (failed.failToOff d .failed)) ∧
    (a.owner = .anchorWrite .formatInvalidate →
      exec (.formatInvalidateResponse id code) s = .next (failed.failToOff d .failed)) ∧
    (a.owner = .anchorWrite .recover →
      exec (.recoverAnchorResponse id code) s = .next (failed.failToOff d .failed)) ∧
    (a.owner = .anchorWrite .commit → exec (.commitAnchorResponse id code) s = .next (failed.failToBroken d)) ∧
    (a.owner = .anchorWrite .rollback → exec (.rollbackAnchorResponse id code) s = .next (failed.failToBroken d))) ∧
  (∀ (s : State) (d : DomId) (r : OpResult),
    let t := s.failToOff d r
    t = State.raise ((s.enterOff d).setDom d { (s.enterOff d).dom d with lastResult := r, anchor := .idle }) (.done d) ∧
    t.dom d = { s.dom d with
      state := .off, occupancy := 0, pressure := false, brokenMark := false, lastResult := r, anchor := .idle,
      counters := (t.dom d).counters } ∧
    t.flag (.done d) = true ∧ ∀ e ∈ t.hold, e.domain ≠ some d) ∧
  (∀ (s : State) (d : DomId),
    let t := s.failToBroken d
    let x : Domain := { s.dom d with state := .broken, brokenMark := false }
    (∃ u : State, u = State.raise (State.setDom ((State.raise (s.setDom d x) (.broken d)).requestSweep d) d
        { x with lastResult := .failed, anchor := .idle }) (.done d) ∧
      t = u.reevaluate (u.waiting d [.drain, .roll, .space])) ∧
    t.dom d = { s.dom d with
      state := .broken, brokenMark := false, lastResult := .failed, anchor := .idle, counters := (t.dom d).counters } ∧
    t.flag (.done d) = true ∧ t.flag (.broken d) = true ∧ t.sweepPending d = true)

/-! ### The replay engine -/

/-- The two anchor reads of a RECOVER: the answer to slot 0 hands over the read of slot 1; then a read that failed ends the
walk FAILED with its fault; no valid anchor ends it NO_ANCHOR; the valid anchor, the one of the higher epoch or, of two equal
epochs, the one in the epoch's own slot, is the restore point unless its capacity is another, which ends the walk FAILED; and
the record walk begins at the top of the journal (R131, R132). That a failed anchor read leaves the failure tally as it stands
is the model's choice (notes/assumptions/33.md), and that byte lane i of a beat is the byte of address i modulo 8 is deduced
(notes/assumptions/9.md). -/
def Obligations.RecoverReadsAndSelects : Prop :=
  (∀ (s : State) (id : DownId) (beats : Vector Beat 8) (a : OwnAccess) (slot1 : Bool) (w : Walk), s.inReset = false →
    s.pendingOwn .read id = some a → a.owner = .anchorRead slot1 → s.replay.walk = some w →
    let d := w.domain
    let c := (s.dom d).config
    let okay := ∀ b ∈ beats.toList, b.code = .okay
    let bytes := beats.toList.flatMap fun b => laneBytes b.data
    let freed := s.setSide .read
      { s.side .read with issuedOwn := (s.side .read).issuedOwn.filter fun i => decide (i.id ≠ id) }
    let run := exec (.anchorReadResponse id beats) s
    let fault := fun (t : State) (addr : Addr) => t.enqueueFault
      { kind := .replayReadFailed, stamp := s.time.tick, domain := some d, initiator := none, address := some addr,
        position := none, code := none }
    let base0 := c.anchorBase
    let base1 := BitVec.ofNat 40 (c.anchorBase.toNat + 64)
    (w.phase = .anchorRead .slot0 → ∀ first, (okay → first = some bytes) → (¬okay → first = none) →
      run = .next (State.withOwn
        { freed with replay := { s.replay with walk := some { w with phase := .anchorRead (.slot1 first) } } }
        { owner := .anchorRead true, domain := d, dir := .read, addr := base1, beats := 8, data := [],
          position := none, deadline := s.deadlineIn s.time.memTimeout })) ∧
    (w.phase = .anchorRead (.slot1 none) → okay → run = .next ((fault freed base0).endWalk w .failed)) ∧
    (w.phase = .anchorRead (.slot1 none) → ¬okay →
      run = .next ((fault (fault freed base0) base1).endWalk w .failed)) ∧
    (∀ line0, w.phase = .anchorRead (.slot1 (some line0)) →
      (¬okay → run = .next ((fault freed base1).endWalk w .failed)) ∧
      (okay →
        (∀ r, selectAnchor d c.capacity line0 bytes = .error r → run = .next (freed.endWalk w r)) ∧
        (∀ line, selectAnchor d c.capacity line0 bytes = .ok line → c.capacity ≠ 0 →
          run = .next (State.advanceWalk { freed with replay := { s.replay with walk := some {
              w with phase := .walk, epoch := anchorEpoch line, cursor := some (c.capacity - 1) } } }))))) ∧
  (∀ (d : DomId) (capacity : Nat) (line0 line1 : List Byte),
    let v0 := anchorValid line0 d = true
    let v1 := anchorValid line1 d = true
    let e0 := (anchorEpoch line0).toNat
    let e1 := (anchorEpoch line1).toNat
    let answer := fun line => if anchorCapacity line = capacity then Except.ok line else Except.error .failed
    (¬v0 → ¬v1 → selectAnchor d capacity line0 line1 = .error .noAnchor) ∧
    (v0 → ¬v1 ∨ e1 < e0 ∨ (e0 = e1 ∧ e0 % 2 = 0) → selectAnchor d capacity line0 line1 = answer line0) ∧
    (v1 → ¬v0 ∨ e0 < e1 ∨ (e0 = e1 ∧ e0 % 2 = 1) → selectAnchor d capacity line0 line1 = answer line1))

/-- A record read answered with OKAY on every beat puts a replayable record into the record buffer, passes a bad record over
with SKIPPED, the tally and REPLAY_BAD_RECORD in a ROLLBACK and silently in a RECOVER; any other code counts a failure and
enqueues REPLAY_READ_FAILED. A record is replayable if it is valid for the walk's domain and epoch and its line meets no area
of that domain nor of any other domain that is not in OFF. A replay write answered OKAY counts REPLAYED and any other code a
failure with REPLAY_WRITE_FAILED; and the walk goes on (R121, R122, R123, R124, R127, R133). That byte lane i of a beat is the
byte of address i modulo 8 is deduced (notes/assumptions/9.md). -/
def Obligations.ReplayResponsesJudged : Prop :=
  (∀ (s : State) (w : Walk) (record : List Byte),
    let first := (recordLine record).toNat * 64
    s.replayable w record = true ↔ recordValid record w.domain w.epoch = true ∧
      ∀ o : DomId, o = w.domain ∨ (s.dom o).state ≠ .off →
        let c := (s.dom o).config
        ¬(first < c.journalBase.toNat + c.capacity * 128 ∧ c.journalBase.toNat < first + 64) ∧
        ¬(first < c.anchorBase.toNat + 128 ∧ c.anchorBase.toNat < first + 64)) ∧
  ∀ (s : State) (id : DownId) (a : OwnAccess) (w : Walk) (position : Nat), s.inReset = false →
    s.replay.walk = some w → a.position = some position →
    let d := w.domain
    let freed := fun dir : Dir => s.setSide dir
      { s.side dir with issuedOwn := (s.side dir).issuedOwn.filter fun i => decide (i.id ≠ id) }
    let walks := fun (t : State) (v : Walk) => { t with replay := { t.replay with walk := some v } }
    let record : FaultKind → Option Addr → FaultRecord := fun kind addr =>
      { kind := kind, stamp := s.time.tick, domain := some d, initiator := none, address := addr,
        position := some position, code := none }
    (∀ beats : Vector Beat 16, s.pendingOwn .read id = some a → a.owner = .recordRead →
      let bytes := beats.toList.flatMap fun b => laneBytes b.data
      let ended : Walk := { w with readOut := none }
      let run := exec (.recordReadResponse id beats) s
      ((∀ b ∈ beats.toList, b.code = .okay) →
        (s.replayable w bytes = true → run = .next (State.advanceWalk (walks (freed .read)
          { ended with buffer := some {
                position := position, record := bytes, deadline := s.deadlineIn s.time.memTimeout } }))) ∧
        (s.replayable w bytes = false → w.kind = .rollback → run = .next (State.advanceWalk (State.enqueueFault
          (State.count (walks (freed .read) { ended with skips := w.skips + 1 }) d .skipped 1)
          (record .replayBadRecord none)))) ∧
        (s.replayable w bytes = false → w.kind = .recover →
          run = .next (State.advanceWalk (walks (freed .read) ended)))) ∧
      ((∃ b ∈ beats.toList, b.code ≠ .okay) → run = .next (State.advanceWalk (State.enqueueFault
        (walks (freed .read) { ended with failures := w.failures + 1 })
        (record .replayReadFailed
          (some (BitVec.ofNat 40 ((s.dom d).config.journalBase.toNat + position * 128)))))))) ∧
    (∀ code : Code, s.pendingOwn .write id = some a → a.owner = .replayWrite →
      let ended : Walk := { w with writeOut := none }
      (code = .okay → exec (.replayWriteResponse id code) s = .next (State.advanceWalk
        (State.count (walks (freed .write) ended) d .replayed 1))) ∧
      (code ≠ .okay → exec (.replayWriteResponse id code) s = .next (State.advanceWalk (State.enqueueFault
        (walks (freed .write) { ended with failures := w.failures + 1 })
        (record .replayWriteFailed (some a.addr))))))

/-- How a walk goes on: a buffered replay write is handed over if it may go, and the next position is then read ahead; with the
buffer empty the next read is issued, one position lower, once the last has ended; a walk with nothing left ends, FAILED after
a failure, PARTIAL after a skip and OK otherwise; a ROLLBACK that did not fail prepares the anchor of the domain's next epoch
and a RECOVER that of the walk epoch's next, except from the last epoch; a RECOVER that failed or found no anchor ends in OFF
with that result; and the engine takes the next walk from its wait list (R119, R120, R121, R123, R125, R128, R134). That a
replay write waits for an earlier one is deduced (notes/assumptions/12.md). -/
def Obligations.WalksAdvanceAndEnd : Prop :=
  ∀ (s : State) (w : Walk), s.replay.walk = some w →
    let d := w.domain
    let done := { s with replay := { s.replay with walk := none } }
    let deadline := s.deadlineIn s.time.memTimeout
    let walks := fun v : Walk => { s with replay := { s.replay with walk := some v } }
    let below := fun k : Nat => if k = 0 then none else some (k - 1)
    let read := fun k : Nat =>
      ({ owner := .recordRead, domain := d, dir := .read,
         addr := BitVec.ofNat 40 ((s.dom d).config.journalBase.toNat + k * 128), beats := 16, data := [],
         position := some k, deadline := deadline } : OwnAccess)
    (w.phase = .walk → w.buffer = none →
      (∀ k, w.readOut = none → w.cursor = some k →
        s.advanceWalk = State.withOwn (walks { w with readOut := some k, cursor := below k }) (read k)) ∧
      (w.readOut ≠ none ∨ (w.writeOut ≠ none ∧ w.cursor = none) → s.advanceWalk = s) ∧
      (w.readOut = none → w.cursor = none → w.writeOut = none →
        (w.failures ≠ 0 → w.kind = .rollback → s.advanceWalk = (done.failToBroken d).nextWalk) ∧
        (w.failures ≠ 0 → w.kind = .recover → s.advanceWalk = (done.failToOff d .failed).nextWalk) ∧
        (w.failures = 0 → w.kind = .rollback → ∀ r, (w.skips ≠ 0 → r = .partialResult) → (w.skips = 0 → r = .ok) →
          s.advanceWalk = (done.prepareAnchor d ((s.dom d).epoch + 1#32) r).nextWalk) ∧
        (w.failures = 0 → w.kind = .recover → w.epoch ≠ BitVec.allOnes 32 →
          s.advanceWalk = (done.prepareAnchor d (w.epoch + 1#32) .ok).nextWalk) ∧
        (w.failures = 0 → w.kind = .recover → w.epoch = BitVec.allOnes 32 →
          s.advanceWalk = (done.failToOff d .failed).nextWalk))) ∧
    (∀ b, w.phase = .walk → w.buffer = some b →
      let goes := s.lineWriteOut (recordLine b.record) = false ∧ w.writeOut = none ∧ s.replayIdHeld = false
      let v : Walk := { w with buffer := none, writeOut := some b.position }
      let write : OwnAccess :=
        { owner := .replayWrite, domain := d, dir := .write, addr := recordLine b.record ++ 0#6, beats := 8,
          data := recordContents b.record, position := some b.position, deadline := b.deadline }
      (¬goes → s.advanceWalk = s) ∧
      (goes → w.readOut ≠ none ∨ w.cursor = none → s.advanceWalk = State.withOwn (walks v) write) ∧
      (goes → ∀ k, w.readOut = none → w.cursor = some k → s.advanceWalk =
        State.withOwn (State.withOwn (walks { v with readOut := some k, cursor := below k }) write) (read k))) ∧
    (w.kind = .recover → ∀ r, r = .failed ∨ r = .noAnchor → s.endWalk w r = (done.failToOff d r).nextWalk) ∧
    (∀ o rest, s.replay.waiting = o :: rest →
      s.nextWalk = State.startWalk { s with replay := { s.replay with waiting := rest } } o) ∧
    (s.replay.waiting = [] → s.nextWalk = s)

/-! ### Captures and sweeps -/

/-- An old-line read answered OKAY on all eight beats takes its slot to WRITE_RECORD with the line's old contents, and its
record write is handed over, unless a timed-out record write to its address holds an ID (R44, R54, R56, R57). That byte lane i
of a beat is the byte of address i modulo 8 is deduced (notes/assumptions/9.md). -/
def Obligations.OldLineReadAnswered : Prop :=
  ∀ (s : State) (id : DownId) (beats : Vector Beat 8) (a : OwnAccess) (k : SlotId), s.inReset = false →
    s.pendingOwn .read id = some a → a.owner = .captureRead k → (s.slot k).state = .readOld →
    (∀ b ∈ beats.toList, b.code = .okay) →
    let x := s.slot k
    let freed := s.setSide .read
      { s.side .read with issuedOwn := (s.side .read).issuedOwn.filter fun i => decide (i.id ≠ id) }
    let deadline := s.deadlineIn s.time.memTimeout
    let filled : Slot := { x with
      state := .writeRecord, buffer := beats.toList.flatMap fun b => laneBytes b.data, writeHanded := false,
      deadline := deadline }
    let addr := BitVec.ofNat 40 ((s.dom x.domain).config.journalBase.toNat + x.position * 128)
    (s.lateRecordTo addr = true →
      exec (.oldLineReadResponse id beats) s = .next { freed with slots := s.slots.set k filled }) ∧
    (s.lateRecordTo addr = false →
      exec (.oldLineReadResponse id beats) s = .next (State.withOwn
        { freed with slots := s.slots.set k { filled with writeHanded := true } }
        { owner := .recordWrite k, domain := x.domain, dir := .write, addr := addr, beats := 16,
          data := recordOf filled, position := some x.position, deadline := deadline }))

/-- A record write answered OKAY makes the record durable: CAPTURES is counted, the line is inserted with the parity of the
slot's epoch in OPEN or unmarked DRAINING, the slot becomes FREE, the SLOT waiters and the CAPTURE and LINE waiters of the
line are re-evaluated, and a drain with no slot left in use ends (R57, R58). That the slot keeps its other fields is deduced
(notes/assumptions/18.md). -/
def Obligations.RecordBecomesDurable : Prop :=
  ∀ (s : State) (id : DownId) (a : OwnAccess) (k : SlotId), s.inReset = false →
    s.pendingOwn .write id = some a → a.owner = .recordWrite k → (s.slot k).state = .writeRecord →
    let x := s.slot k
    let d := x.domain
    let counted := (s.setSide .write
      { s.side .write with
        issuedOwn := (s.side .write).issuedOwn.filter fun i => decide (i.id ≠ id) }).count d .captures 1
    let journaling := (s.dom d).state = .openState ∨ ((s.dom d).state = .draining ∧ (s.dom d).brokenMark = false)
    ∀ inserted : State,
      (journaling → inserted = counted.filterInsert d x.line (x.epoch.getLsbD 0)) → (¬journaling → inserted = counted) →
      let y := inserted.dom d
      let freed : State := { inserted with
        slots := s.slots.set k { x with state := .free, deadline := none }
        domains := inserted.domains.set d { y with slotsInUse := y.slotsInUse - 1 } }
      let waiters := (s.hold.filter fun e => decide (e.wait = .slot) ||
        ((decide (e.wait = .capture) || decide (e.wait = .line)) && decide (x.line ∈ e.uncovered))).map (·.arrival)
      exec (.recordWriteResponse id .okay) s = .next ((freed.reevaluate waiters).endDrainIfDone d)

/-- A capture that fails, at its old-line read or at its record write, enqueues its fault; it breaks an OPEN domain, and
marks a DRAINING domain once, with BROKEN[d] raised and a sweep requested; its slot becomes FREE, the waiters of R58 and those
of R60 or R61 are re-evaluated, and a drain with no slot left in use ends (R35, R38, R55, R58, R59, R60, R61). -/
def Obligations.CaptureFailuresBreak : Prop :=
  (∀ (s : State) (id : DownId) (a : OwnAccess) (k : SlotId), s.inReset = false →
    let freed := fun dir : Dir => s.setSide dir
      { s.side dir with issuedOwn := (s.side dir).issuedOwn.filter fun i => decide (i.id ≠ id) }
    (∀ beats : Vector Beat 8, s.pendingOwn .read id = some a → a.owner = .captureRead k → (s.slot k).state = .readOld →
      (∃ b ∈ beats.toList, b.code ≠ .okay) →
      exec (.oldLineReadResponse id beats) s = .next ((freed .read).captureFails k .captureFailed)) ∧
    (∀ code : Code, s.pendingOwn .write id = some a → a.owner = .recordWrite k → (s.slot k).state = .writeRecord →
      code ≠ .okay →
      exec (.recordWriteResponse id code) s = .next ((freed .write).captureFails k .recordFailed))) ∧
  (∀ (s : State) (k : SlotId) (kind : FaultKind),
    let x := s.slot k
    let d := x.domain
    let faulted := s.enqueueFault
      { kind := kind, stamp := s.time.tick, domain := some d, initiator := none, address := some (x.line ++ 0#6),
        position := some x.position, code := none }
    let ends := fun (t : State) (more : List Nat) => (t.reevaluate (addMissing (t.freeingSet x.line) more)).endDrainIfDone d
    let arrivals := fun p : Entry → Bool => (s.hold.filter fun e => decide (e.domain = some d) && p e).map (·.arrival)
    let waits := fun e : Entry => decide (e.wait = .capture) || decide (e.wait = .line) || decide (e.wait = .slot) ||
      decide (e.wait = .space)
    ((s.dom d).state = .openState → s.captureFails k kind = ends (State.freeSlot (State.requestSweep (State.raise
      (faulted.setDom d { s.dom d with state := .broken }) (.broken d)) d) k) (arrivals waits)) ∧
    ((s.dom d).state = .draining → (s.dom d).brokenMark = false →
      s.captureFails k kind = ends (State.freeSlot (State.requestSweep (State.raise
        (faulted.setDom d { s.dom d with brokenMark := true }) (.broken d)) d) k) (arrivals fun e => e.carried)) ∧
    (((s.dom d).state = .draining ∧ (s.dom d).brokenMark = true) ∨ (s.dom d).state = .broken →
      s.captureFails k kind = ends (faulted.freeSlot k) []))

/-- A visit of a running sweep judges the four ways of its next set on the domain's record now, invalidates the valid stale
entries of its domain, leaves every other entry and the pointer, and moves on by one set with one visit fewer to make; the
last visit ends the sweep, hands over what it held back, and starts the sweep at the head of the queue (R79, R80, R82). -/
def Obligations.SweepVisitJudgesOneSet : Prop :=
  ∀ (s : State) (r : RunningSweep), s.inReset = false → s.sweep.running = some r →
    let f := s.filterSet r.next
    ∃ ways : Vector FilterEntry 4,
      (∀ w : Fin 4,
        (f.ways[w].valid = true ∧ f.ways[w].domain = r.domain ∧ s.stale f.ways[w] = true →
          ways[w] = { f.ways[w] with valid := false }) ∧
        (¬(f.ways[w].valid = true ∧ f.ways[w].domain = r.domain ∧ s.stale f.ways[w] = true) → ways[w] = f.ways[w])) ∧
      let visited : State := { s with filter := s.filter.set r.next { f with ways := ways } }
      (2 ≤ r.left → exec .sweepVisit s = .next { visited with sweep := { s.sweep with running := some {
          r with next := Fin.ofNat 512 (r.next.val + 1), left := r.left - 1 } } }) ∧
      (r.left ≤ 1 → ∃ t : State, t = State.releaseHeld { visited with sweep := { s.sweep with running := none } } ∧
        (s.sweep.queue = [] → exec .sweepVisit s = .next { t with sweep := { queue := [], running := none } }) ∧
        (∀ d rest, s.sweep.queue = d :: rest → exec .sweepVisit s = .next { t with sweep :=
          { queue := rest, running := some { domain := d, next := 0, left := 512 } } }))

/-- After 512 visits of a sweep no valid stale entry of its domain is left in the filter, every other entry stands as it did,
and the domain's sweep is no longer pending (R77, R79, R80). -/
def Obligations.FullSweepClearsDomain : Prop :=
  ∀ (s : State) (r : RunningSweep), s.inReset = false → s.sweep.running = some r → r.left = 512 →
    r.domain ∉ s.sweep.queue →
    let t := s.visits 512
    t.sweepPending r.domain = false ∧
    ∀ (i : Fin 512) (w : Fin 4),
      let e := (s.filterSet i).ways[w]
      let gone := e.valid = true ∧ e.domain = r.domain ∧ s.stale e = true
      (gone → ((t.filterSet i).ways[w]).valid = false) ∧ (¬gone → (t.filterSet i).ways[w] = e) ∧
      t.stale e = s.stale e

/-! ### Laws that every step keeps -/

/-- The machine right after reset meets every law of Sys2Proof/Safety.lean. -/
def Obligations.ResetMeetsEveryLaw : Prop :=
  State.reset.FaultsBounded ∧ State.reset.LatchAtHead ∧ State.reset.PlacesBounded ∧ State.reset.HoldOrdered ∧
    State.reset.UnansweredOrdered ∧ State.reset.UnansweredBounded ∧ State.reset.OccupancyBounded ∧ State.reset.SlotsDistinct ∧
    State.reset.SlotsCounted ∧ State.reset.FilterUnique ∧ State.reset.SweepsOrdered ∧ State.reset.IdsDistinct ∧
    State.reset.TimingLegal ∧ State.reset.RegionsLegal ∧ State.reset.ConfigsLegal ∧ State.reset.ResetHeld ∧
    State.reset.FrameQuiet ∧ State.reset.FrameCounted

/-- A record offered to the fault queue joins its tail, or replaces the newest of eight with the lost count one higher up to
255 and FAULT_LOST raised, and FAULT is raised in both cases; no step ever takes the queue above eight records or the lost
count above 255 (R150, R151). -/
def Obligations.FaultQueueKeepsEight : Prop :=
  (∀ (s : State) (r : FaultRecord),
    (s.faults.queue.length < 8 → s.enqueueFault r = { s with faults := { s.faults with
      queue := s.faults.queue ++ [r], flags := s.faults.flags ||| (1#19 <<< 16) } }) ∧
    (s.faults.queue.length = 8 → s.faults.lost ≤ 255 → s.enqueueFault r = { s with faults := { s.faults with
      queue := s.faults.queue.take 7 ++ [r], lost := min (s.faults.lost + 1) 255,
      flags := s.faults.flags ||| (1#19 <<< 17) ||| (1#19 <<< 16) } })) ∧
  (∀ s t : State, s.FaultsBounded → step s = .next t → t.FaultsBounded)

/-- Every step keeps the places of the hold queue within 32, its entries in arrival order, and the unanswered requests in
acceptance order and, with those whose place is kept, within 64 (R1, R19, R85, R86). That kept places count towards the 64 is
deduced (notes/assumptions/11.md). -/
def Obligations.StepsKeepAcceptanceOrder : Prop :=
  (∀ s t : State, s.PlacesBounded → step s = .next t → t.PlacesBounded) ∧
  (∀ s t : State, s.HoldOrdered → step s = .next t → t.HoldOrdered) ∧
  (∀ s t : State, s.UnansweredOrdered → step s = .next t → t.UnansweredOrdered) ∧
  (∀ s t : State, s.UnansweredBounded → step s = .next t → t.UnansweredBounded)

/-- Every step keeps each domain's occupancy within its capacity, and 0 in OFF (R34, R46). -/
def Obligations.StepsKeepOccupancyBounded : Prop :=
  ∀ s t : State, s.OccupancyBounded → step s = .next t → t.OccupancyBounded

/-- Every step keeps the capture slots that are not FREE on distinct lines, and each domain's slots in use at the number of
its slots that are not FREE (R24, R48, R65). -/
def Obligations.StepsKeepSlotLaws : Prop :=
  (∀ s t : State, s.SlotsDistinct → step s = .next t → t.SlotsDistinct) ∧
  (∀ s t : State, s.SlotsCounted → step s = .next t → t.SlotsCounted)

/-- Every step keeps each valid filter entry in the set of its line, and at most one valid entry for each pair of domain and
line (R70, R76). -/
def Obligations.StepsKeepFilterUnique : Prop := ∀ s t : State, s.FilterUnique → step s = .next t → t.FilterUnique

/-- Every step keeps the timing settings, the region table and the domain configurations within their ranges, the sweep
engine's queue without repeats and empty while no sweep runs, and the downstream IDs of own accesses distinct within 16 to 31
(R6, R8, R10, R22, R23, R77, R78, R80, R95, R156, R157). -/
def Obligations.StepsKeepSettingsSweepsAndIds : Prop :=
  (∀ s t : State, s.TimingLegal → step s = .next t → t.TimingLegal) ∧
  (∀ s t : State, s.RegionsLegal → step s = .next t → t.RegionsLegal) ∧
  (∀ s t : State, s.ConfigsLegal → step s = .next t → t.ConfigsLegal) ∧
  (∀ s t : State, s.SweepsOrdered → step s = .next t → t.SweepsOrdered) ∧
  (∀ s t : State, s.IdsDistinct → step s = .next t → t.IdsDistinct)

/-- Every step keeps the part at its values after reset while it is in reset, the frame engine quiet while CS_N is high, its
expected length fixed by the opcode byte and its counts below the lengths they run to, and the record that a TAKE_FAULT reply
has latched at the head of the fault queue (R20, R151, R152, R161, R162, R173, R174, R180). That a fall of RST_N leaves the
waiting commands and the other pins is the model's choice (notes/assumptions/10.md). -/
def Obligations.StepsKeepResetAndFrameLaws : Prop :=
  (∀ s t : State, s.ResetHeld → step s = .next t → t.ResetHeld) ∧
  (∀ s t : State, s.FrameQuiet → step s = .next t → t.FrameQuiet) ∧
  (∀ s t : State, s.FrameCounted → step s = .next t → t.FrameCounted) ∧
  (∀ s t : State, s.FrameQuiet → s.LatchAtHead → step s = .next t → t.LatchAtHead)

end SliceStatements
end

