-- ==== Sys2Proof/Laws/State.lean ====
section
/-! SUPPORT. What each record update of the state leaves alone: for every update, one lemma for each field and each reader
that it does not touch, and the readers of what it sets. -/

namespace Sys2Proof.Machine

variable (s : State)


/-! ### setDom -/

@[simp] theorem State.setDom_pins (d : DomId) (x : Domain) : (s.setDom d x).pins = s.pins := rfl
@[simp] theorem State.setDom_host (d : DomId) (x : Domain) : (s.setDom d x).host = s.host := rfl
@[simp] theorem State.setDom_mem (d : DomId) (x : Domain) : (s.setDom d x).mem = s.mem := rfl
@[simp] theorem State.setDom_regions (d : DomId) (x : Domain) : (s.setDom d x).regions = s.regions := rfl
@[simp] theorem State.setDom_slots (d : DomId) (x : Domain) : (s.setDom d x).slots = s.slots := rfl
@[simp] theorem State.setDom_filter (d : DomId) (x : Domain) : (s.setDom d x).filter = s.filter := rfl
@[simp] theorem State.setDom_sweep (d : DomId) (x : Domain) : (s.setDom d x).sweep = s.sweep := rfl
@[simp] theorem State.setDom_hold (d : DomId) (x : Domain) : (s.setDom d x).hold = s.hold := rfl
@[simp] theorem State.setDom_replay (d : DomId) (x : Domain) : (s.setDom d x).replay = s.replay := rfl
@[simp] theorem State.setDom_globals (d : DomId) (x : Domain) : (s.setDom d x).globals = s.globals := rfl
@[simp] theorem State.setDom_faults (d : DomId) (x : Domain) : (s.setDom d x).faults = s.faults := rfl
@[simp] theorem State.setDom_time (d : DomId) (x : Domain) : (s.setDom d x).time = s.time := rfl
@[simp] theorem State.setDom_frame (d : DomId) (x : Domain) : (s.setDom d x).frame = s.frame := rfl
@[simp] theorem State.setDom_pending (d : DomId) (x : Domain) : (s.setDom d x).pending = s.pending := rfl
@[simp] theorem State.setDom_slot (d : DomId) (x : Domain) (j : SlotId) : (s.setDom d x).slot j = s.slot j := rfl
@[simp] theorem State.setDom_filterSet (d : DomId) (x : Domain) (n : Fin 512) : (s.setDom d x).filterSet n = s.filterSet n := rfl
@[simp] theorem State.setDom_side (d : DomId) (x : Domain) (dr : Dir) : (s.setDom d x).side dr = s.side dr := rfl
@[simp] theorem State.setDom_up (d : DomId) (x : Domain) (dr : Dir) : (s.setDom d x).up dr = s.up dr := rfl
@[simp] theorem State.setDom_inReset (d : DomId) (x : Domain) : (s.setDom d x).inReset = s.inReset := rfl

/-! ### updDom -/

@[simp] theorem State.updDom_pins (d : DomId) (f : Domain → Domain) : (s.updDom d f).pins = s.pins := rfl
@[simp] theorem State.updDom_host (d : DomId) (f : Domain → Domain) : (s.updDom d f).host = s.host := rfl
@[simp] theorem State.updDom_mem (d : DomId) (f : Domain → Domain) : (s.updDom d f).mem = s.mem := rfl
@[simp] theorem State.updDom_regions (d : DomId) (f : Domain → Domain) : (s.updDom d f).regions = s.regions := rfl
@[simp] theorem State.updDom_slots (d : DomId) (f : Domain → Domain) : (s.updDom d f).slots = s.slots := rfl
@[simp] theorem State.updDom_filter (d : DomId) (f : Domain → Domain) : (s.updDom d f).filter = s.filter := rfl
@[simp] theorem State.updDom_sweep (d : DomId) (f : Domain → Domain) : (s.updDom d f).sweep = s.sweep := rfl
@[simp] theorem State.updDom_hold (d : DomId) (f : Domain → Domain) : (s.updDom d f).hold = s.hold := rfl
@[simp] theorem State.updDom_replay (d : DomId) (f : Domain → Domain) : (s.updDom d f).replay = s.replay := rfl
@[simp] theorem State.updDom_globals (d : DomId) (f : Domain → Domain) : (s.updDom d f).globals = s.globals := rfl
@[simp] theorem State.updDom_faults (d : DomId) (f : Domain → Domain) : (s.updDom d f).faults = s.faults := rfl
@[simp] theorem State.updDom_time (d : DomId) (f : Domain → Domain) : (s.updDom d f).time = s.time := rfl
@[simp] theorem State.updDom_frame (d : DomId) (f : Domain → Domain) : (s.updDom d f).frame = s.frame := rfl
@[simp] theorem State.updDom_pending (d : DomId) (f : Domain → Domain) : (s.updDom d f).pending = s.pending := rfl
@[simp] theorem State.updDom_slot (d : DomId) (f : Domain → Domain) (j : SlotId) : (s.updDom d f).slot j = s.slot j := rfl
@[simp] theorem State.updDom_filterSet (d : DomId) (f : Domain → Domain) (n : Fin 512) : (s.updDom d f).filterSet n = s.filterSet n := rfl
@[simp] theorem State.updDom_side (d : DomId) (f : Domain → Domain) (dr : Dir) : (s.updDom d f).side dr = s.side dr := rfl
@[simp] theorem State.updDom_up (d : DomId) (f : Domain → Domain) (dr : Dir) : (s.updDom d f).up dr = s.up dr := rfl
@[simp] theorem State.updDom_inReset (d : DomId) (f : Domain → Domain) : (s.updDom d f).inReset = s.inReset := rfl

/-! ### setSlot -/

@[simp] theorem State.setSlot_pins (k : SlotId) (x : Slot) : (s.setSlot k x).pins = s.pins := rfl
@[simp] theorem State.setSlot_host (k : SlotId) (x : Slot) : (s.setSlot k x).host = s.host := rfl
@[simp] theorem State.setSlot_mem (k : SlotId) (x : Slot) : (s.setSlot k x).mem = s.mem := rfl
@[simp] theorem State.setSlot_regions (k : SlotId) (x : Slot) : (s.setSlot k x).regions = s.regions := rfl
@[simp] theorem State.setSlot_domains (k : SlotId) (x : Slot) : (s.setSlot k x).domains = s.domains := rfl
@[simp] theorem State.setSlot_filter (k : SlotId) (x : Slot) : (s.setSlot k x).filter = s.filter := rfl
@[simp] theorem State.setSlot_sweep (k : SlotId) (x : Slot) : (s.setSlot k x).sweep = s.sweep := rfl
@[simp] theorem State.setSlot_hold (k : SlotId) (x : Slot) : (s.setSlot k x).hold = s.hold := rfl
@[simp] theorem State.setSlot_replay (k : SlotId) (x : Slot) : (s.setSlot k x).replay = s.replay := rfl
@[simp] theorem State.setSlot_globals (k : SlotId) (x : Slot) : (s.setSlot k x).globals = s.globals := rfl
@[simp] theorem State.setSlot_faults (k : SlotId) (x : Slot) : (s.setSlot k x).faults = s.faults := rfl
@[simp] theorem State.setSlot_time (k : SlotId) (x : Slot) : (s.setSlot k x).time = s.time := rfl
@[simp] theorem State.setSlot_frame (k : SlotId) (x : Slot) : (s.setSlot k x).frame = s.frame := rfl
@[simp] theorem State.setSlot_pending (k : SlotId) (x : Slot) : (s.setSlot k x).pending = s.pending := rfl
@[simp] theorem State.setSlot_dom (k : SlotId) (x : Slot) (o : DomId) : (s.setSlot k x).dom o = s.dom o := rfl
@[simp] theorem State.setSlot_filterSet (k : SlotId) (x : Slot) (n : Fin 512) : (s.setSlot k x).filterSet n = s.filterSet n := rfl
@[simp] theorem State.setSlot_side (k : SlotId) (x : Slot) (dr : Dir) : (s.setSlot k x).side dr = s.side dr := rfl
@[simp] theorem State.setSlot_up (k : SlotId) (x : Slot) (dr : Dir) : (s.setSlot k x).up dr = s.up dr := rfl
@[simp] theorem State.setSlot_inReset (k : SlotId) (x : Slot) : (s.setSlot k x).inReset = s.inReset := rfl

/-! ### setFilterSet -/

@[simp] theorem State.setFilterSet_pins (i : Fin 512) (x : FilterSet) : (s.setFilterSet i x).pins = s.pins := rfl
@[simp] theorem State.setFilterSet_host (i : Fin 512) (x : FilterSet) : (s.setFilterSet i x).host = s.host := rfl
@[simp] theorem State.setFilterSet_mem (i : Fin 512) (x : FilterSet) : (s.setFilterSet i x).mem = s.mem := rfl
@[simp] theorem State.setFilterSet_regions (i : Fin 512) (x : FilterSet) : (s.setFilterSet i x).regions = s.regions := rfl
@[simp] theorem State.setFilterSet_domains (i : Fin 512) (x : FilterSet) : (s.setFilterSet i x).domains = s.domains := rfl
@[simp] theorem State.setFilterSet_slots (i : Fin 512) (x : FilterSet) : (s.setFilterSet i x).slots = s.slots := rfl
@[simp] theorem State.setFilterSet_sweep (i : Fin 512) (x : FilterSet) : (s.setFilterSet i x).sweep = s.sweep := rfl
@[simp] theorem State.setFilterSet_hold (i : Fin 512) (x : FilterSet) : (s.setFilterSet i x).hold = s.hold := rfl
@[simp] theorem State.setFilterSet_replay (i : Fin 512) (x : FilterSet) : (s.setFilterSet i x).replay = s.replay := rfl
@[simp] theorem State.setFilterSet_globals (i : Fin 512) (x : FilterSet) : (s.setFilterSet i x).globals = s.globals := rfl
@[simp] theorem State.setFilterSet_faults (i : Fin 512) (x : FilterSet) : (s.setFilterSet i x).faults = s.faults := rfl
@[simp] theorem State.setFilterSet_time (i : Fin 512) (x : FilterSet) : (s.setFilterSet i x).time = s.time := rfl
@[simp] theorem State.setFilterSet_frame (i : Fin 512) (x : FilterSet) : (s.setFilterSet i x).frame = s.frame := rfl
@[simp] theorem State.setFilterSet_pending (i : Fin 512) (x : FilterSet) : (s.setFilterSet i x).pending = s.pending := rfl
@[simp] theorem State.setFilterSet_dom (i : Fin 512) (x : FilterSet) (o : DomId) : (s.setFilterSet i x).dom o = s.dom o := rfl
@[simp] theorem State.setFilterSet_slot (i : Fin 512) (x : FilterSet) (j : SlotId) : (s.setFilterSet i x).slot j = s.slot j := rfl
@[simp] theorem State.setFilterSet_side (i : Fin 512) (x : FilterSet) (dr : Dir) : (s.setFilterSet i x).side dr = s.side dr := rfl
@[simp] theorem State.setFilterSet_up (i : Fin 512) (x : FilterSet) (dr : Dir) : (s.setFilterSet i x).up dr = s.up dr := rfl
@[simp] theorem State.setFilterSet_inReset (i : Fin 512) (x : FilterSet) : (s.setFilterSet i x).inReset = s.inReset := rfl

/-! ### setSide -/

@[simp] theorem State.setSide_pins (dir : Dir) (m : MemSide) : (s.setSide dir m).pins = s.pins := by cases dir <;> rfl
@[simp] theorem State.setSide_host (dir : Dir) (m : MemSide) : (s.setSide dir m).host = s.host := by cases dir <;> rfl
@[simp] theorem State.setSide_regions (dir : Dir) (m : MemSide) : (s.setSide dir m).regions = s.regions := by cases dir <;> rfl
@[simp] theorem State.setSide_domains (dir : Dir) (m : MemSide) : (s.setSide dir m).domains = s.domains := by cases dir <;> rfl
@[simp] theorem State.setSide_slots (dir : Dir) (m : MemSide) : (s.setSide dir m).slots = s.slots := by cases dir <;> rfl
@[simp] theorem State.setSide_filter (dir : Dir) (m : MemSide) : (s.setSide dir m).filter = s.filter := by cases dir <;> rfl
@[simp] theorem State.setSide_sweep (dir : Dir) (m : MemSide) : (s.setSide dir m).sweep = s.sweep := by cases dir <;> rfl
@[simp] theorem State.setSide_hold (dir : Dir) (m : MemSide) : (s.setSide dir m).hold = s.hold := by cases dir <;> rfl
@[simp] theorem State.setSide_replay (dir : Dir) (m : MemSide) : (s.setSide dir m).replay = s.replay := by cases dir <;> rfl
@[simp] theorem State.setSide_globals (dir : Dir) (m : MemSide) : (s.setSide dir m).globals = s.globals := by cases dir <;> rfl
@[simp] theorem State.setSide_faults (dir : Dir) (m : MemSide) : (s.setSide dir m).faults = s.faults := by cases dir <;> rfl
@[simp] theorem State.setSide_time (dir : Dir) (m : MemSide) : (s.setSide dir m).time = s.time := by cases dir <;> rfl
@[simp] theorem State.setSide_frame (dir : Dir) (m : MemSide) : (s.setSide dir m).frame = s.frame := by cases dir <;> rfl
@[simp] theorem State.setSide_pending (dir : Dir) (m : MemSide) : (s.setSide dir m).pending = s.pending := by cases dir <;> rfl
@[simp] theorem State.setSide_dom (dir : Dir) (m : MemSide) (o : DomId) : (s.setSide dir m).dom o = s.dom o := by cases dir <;> rfl
@[simp] theorem State.setSide_slot (dir : Dir) (m : MemSide) (j : SlotId) : (s.setSide dir m).slot j = s.slot j := by cases dir <;> rfl
@[simp] theorem State.setSide_filterSet (dir : Dir) (m : MemSide) (n : Fin 512) : (s.setSide dir m).filterSet n = s.filterSet n := by cases dir <;> rfl
@[simp] theorem State.setSide_up (dir : Dir) (m : MemSide) (dr : Dir) : (s.setSide dir m).up dr = s.up dr := by cases dir <;> rfl
@[simp] theorem State.setSide_inReset (dir : Dir) (m : MemSide) : (s.setSide dir m).inReset = s.inReset := by cases dir <;> rfl

/-! ### setUp -/

@[simp] theorem State.setUp_pins (dir : Dir) (u : Upstream) : (s.setUp dir u).pins = s.pins := by cases dir <;> rfl
@[simp] theorem State.setUp_mem (dir : Dir) (u : Upstream) : (s.setUp dir u).mem = s.mem := by cases dir <;> rfl
@[simp] theorem State.setUp_regions (dir : Dir) (u : Upstream) : (s.setUp dir u).regions = s.regions := by cases dir <;> rfl
@[simp] theorem State.setUp_domains (dir : Dir) (u : Upstream) : (s.setUp dir u).domains = s.domains := by cases dir <;> rfl
@[simp] theorem State.setUp_slots (dir : Dir) (u : Upstream) : (s.setUp dir u).slots = s.slots := by cases dir <;> rfl
@[simp] theorem State.setUp_filter (dir : Dir) (u : Upstream) : (s.setUp dir u).filter = s.filter := by cases dir <;> rfl
@[simp] theorem State.setUp_sweep (dir : Dir) (u : Upstream) : (s.setUp dir u).sweep = s.sweep := by cases dir <;> rfl
@[simp] theorem State.setUp_hold (dir : Dir) (u : Upstream) : (s.setUp dir u).hold = s.hold := by cases dir <;> rfl
@[simp] theorem State.setUp_replay (dir : Dir) (u : Upstream) : (s.setUp dir u).replay = s.replay := by cases dir <;> rfl
@[simp] theorem State.setUp_globals (dir : Dir) (u : Upstream) : (s.setUp dir u).globals = s.globals := by cases dir <;> rfl
@[simp] theorem State.setUp_faults (dir : Dir) (u : Upstream) : (s.setUp dir u).faults = s.faults := by cases dir <;> rfl
@[simp] theorem State.setUp_time (dir : Dir) (u : Upstream) : (s.setUp dir u).time = s.time := by cases dir <;> rfl
@[simp] theorem State.setUp_frame (dir : Dir) (u : Upstream) : (s.setUp dir u).frame = s.frame := by cases dir <;> rfl
@[simp] theorem State.setUp_pending (dir : Dir) (u : Upstream) : (s.setUp dir u).pending = s.pending := by cases dir <;> rfl
@[simp] theorem State.setUp_dom (dir : Dir) (u : Upstream) (o : DomId) : (s.setUp dir u).dom o = s.dom o := by cases dir <;> rfl
@[simp] theorem State.setUp_slot (dir : Dir) (u : Upstream) (j : SlotId) : (s.setUp dir u).slot j = s.slot j := by cases dir <;> rfl
@[simp] theorem State.setUp_filterSet (dir : Dir) (u : Upstream) (n : Fin 512) : (s.setUp dir u).filterSet n = s.filterSet n := by cases dir <;> rfl
@[simp] theorem State.setUp_side (dir : Dir) (u : Upstream) (dr : Dir) : (s.setUp dir u).side dr = s.side dr := by cases dir <;> rfl
@[simp] theorem State.setUp_inReset (dir : Dir) (u : Upstream) : (s.setUp dir u).inReset = s.inReset := by cases dir <;> rfl

/-! ### handOver -/

@[simp] theorem State.handOver_pins (a : OwnAccess) : (s.handOver a).pins = s.pins := by rcases a with ⟨_, _, dir, _⟩; cases dir <;> rfl
@[simp] theorem State.handOver_host (a : OwnAccess) : (s.handOver a).host = s.host := by rcases a with ⟨_, _, dir, _⟩; cases dir <;> rfl
@[simp] theorem State.handOver_regions (a : OwnAccess) : (s.handOver a).regions = s.regions := by rcases a with ⟨_, _, dir, _⟩; cases dir <;> rfl
@[simp] theorem State.handOver_domains (a : OwnAccess) : (s.handOver a).domains = s.domains := by rcases a with ⟨_, _, dir, _⟩; cases dir <;> rfl
@[simp] theorem State.handOver_slots (a : OwnAccess) : (s.handOver a).slots = s.slots := by rcases a with ⟨_, _, dir, _⟩; cases dir <;> rfl
@[simp] theorem State.handOver_filter (a : OwnAccess) : (s.handOver a).filter = s.filter := by rcases a with ⟨_, _, dir, _⟩; cases dir <;> rfl
@[simp] theorem State.handOver_sweep (a : OwnAccess) : (s.handOver a).sweep = s.sweep := by rcases a with ⟨_, _, dir, _⟩; cases dir <;> rfl
@[simp] theorem State.handOver_hold (a : OwnAccess) : (s.handOver a).hold = s.hold := by rcases a with ⟨_, _, dir, _⟩; cases dir <;> rfl
@[simp] theorem State.handOver_replay (a : OwnAccess) : (s.handOver a).replay = s.replay := by rcases a with ⟨_, _, dir, _⟩; cases dir <;> rfl
@[simp] theorem State.handOver_globals (a : OwnAccess) : (s.handOver a).globals = s.globals := by rcases a with ⟨_, _, dir, _⟩; cases dir <;> rfl
@[simp] theorem State.handOver_faults (a : OwnAccess) : (s.handOver a).faults = s.faults := by rcases a with ⟨_, _, dir, _⟩; cases dir <;> rfl
@[simp] theorem State.handOver_time (a : OwnAccess) : (s.handOver a).time = s.time := by rcases a with ⟨_, _, dir, _⟩; cases dir <;> rfl
@[simp] theorem State.handOver_frame (a : OwnAccess) : (s.handOver a).frame = s.frame := by rcases a with ⟨_, _, dir, _⟩; cases dir <;> rfl
@[simp] theorem State.handOver_pending (a : OwnAccess) : (s.handOver a).pending = s.pending := by rcases a with ⟨_, _, dir, _⟩; cases dir <;> rfl
@[simp] theorem State.handOver_dom (a : OwnAccess) (o : DomId) : (s.handOver a).dom o = s.dom o := by rcases a with ⟨_, _, dir, _⟩; cases dir <;> rfl
@[simp] theorem State.handOver_slot (a : OwnAccess) (j : SlotId) : (s.handOver a).slot j = s.slot j := by rcases a with ⟨_, _, dir, _⟩; cases dir <;> rfl
@[simp] theorem State.handOver_filterSet (a : OwnAccess) (n : Fin 512) : (s.handOver a).filterSet n = s.filterSet n := by rcases a with ⟨_, _, dir, _⟩; cases dir <;> rfl
@[simp] theorem State.handOver_up (a : OwnAccess) (dr : Dir) : (s.handOver a).up dr = s.up dr := by rcases a with ⟨_, _, dir, _⟩; cases dir <;> rfl
@[simp] theorem State.handOver_inReset (a : OwnAccess) : (s.handOver a).inReset = s.inReset := by rcases a with ⟨_, _, dir, _⟩; cases dir <;> rfl

/-! ### freeId -/

@[simp] theorem State.freeId_pins (dir : Dir) (id : DownId) : (s.freeId dir id).pins = s.pins := by cases dir <;> rfl
@[simp] theorem State.freeId_host (dir : Dir) (id : DownId) : (s.freeId dir id).host = s.host := by cases dir <;> rfl
@[simp] theorem State.freeId_regions (dir : Dir) (id : DownId) : (s.freeId dir id).regions = s.regions := by cases dir <;> rfl
@[simp] theorem State.freeId_domains (dir : Dir) (id : DownId) : (s.freeId dir id).domains = s.domains := by cases dir <;> rfl
@[simp] theorem State.freeId_slots (dir : Dir) (id : DownId) : (s.freeId dir id).slots = s.slots := by cases dir <;> rfl
@[simp] theorem State.freeId_filter (dir : Dir) (id : DownId) : (s.freeId dir id).filter = s.filter := by cases dir <;> rfl
@[simp] theorem State.freeId_sweep (dir : Dir) (id : DownId) : (s.freeId dir id).sweep = s.sweep := by cases dir <;> rfl
@[simp] theorem State.freeId_hold (dir : Dir) (id : DownId) : (s.freeId dir id).hold = s.hold := by cases dir <;> rfl
@[simp] theorem State.freeId_replay (dir : Dir) (id : DownId) : (s.freeId dir id).replay = s.replay := by cases dir <;> rfl
@[simp] theorem State.freeId_globals (dir : Dir) (id : DownId) : (s.freeId dir id).globals = s.globals := by cases dir <;> rfl
@[simp] theorem State.freeId_faults (dir : Dir) (id : DownId) : (s.freeId dir id).faults = s.faults := by cases dir <;> rfl
@[simp] theorem State.freeId_time (dir : Dir) (id : DownId) : (s.freeId dir id).time = s.time := by cases dir <;> rfl
@[simp] theorem State.freeId_frame (dir : Dir) (id : DownId) : (s.freeId dir id).frame = s.frame := by cases dir <;> rfl
@[simp] theorem State.freeId_pending (dir : Dir) (id : DownId) : (s.freeId dir id).pending = s.pending := by cases dir <;> rfl
@[simp] theorem State.freeId_dom (dir : Dir) (id : DownId) (o : DomId) : (s.freeId dir id).dom o = s.dom o := by cases dir <;> rfl
@[simp] theorem State.freeId_slot (dir : Dir) (id : DownId) (j : SlotId) : (s.freeId dir id).slot j = s.slot j := by cases dir <;> rfl
@[simp] theorem State.freeId_filterSet (dir : Dir) (id : DownId) (n : Fin 512) : (s.freeId dir id).filterSet n = s.filterSet n := by cases dir <;> rfl
@[simp] theorem State.freeId_up (dir : Dir) (id : DownId) (dr : Dir) : (s.freeId dir id).up dr = s.up dr := by cases dir <;> rfl
@[simp] theorem State.freeId_inReset (dir : Dir) (id : DownId) : (s.freeId dir id).inReset = s.inReset := by cases dir <;> rfl

/-! ### timeOutOwn -/

@[simp] theorem State.timeOutOwn_pins (dir : Dir) (p : OwnAccess → Bool) : (s.timeOutOwn dir p).pins = s.pins := by cases dir <;> rfl
@[simp] theorem State.timeOutOwn_host (dir : Dir) (p : OwnAccess → Bool) : (s.timeOutOwn dir p).host = s.host := by cases dir <;> rfl
@[simp] theorem State.timeOutOwn_regions (dir : Dir) (p : OwnAccess → Bool) : (s.timeOutOwn dir p).regions = s.regions := by cases dir <;> rfl
@[simp] theorem State.timeOutOwn_domains (dir : Dir) (p : OwnAccess → Bool) : (s.timeOutOwn dir p).domains = s.domains := by cases dir <;> rfl
@[simp] theorem State.timeOutOwn_slots (dir : Dir) (p : OwnAccess → Bool) : (s.timeOutOwn dir p).slots = s.slots := by cases dir <;> rfl
@[simp] theorem State.timeOutOwn_filter (dir : Dir) (p : OwnAccess → Bool) : (s.timeOutOwn dir p).filter = s.filter := by cases dir <;> rfl
@[simp] theorem State.timeOutOwn_sweep (dir : Dir) (p : OwnAccess → Bool) : (s.timeOutOwn dir p).sweep = s.sweep := by cases dir <;> rfl
@[simp] theorem State.timeOutOwn_hold (dir : Dir) (p : OwnAccess → Bool) : (s.timeOutOwn dir p).hold = s.hold := by cases dir <;> rfl
@[simp] theorem State.timeOutOwn_replay (dir : Dir) (p : OwnAccess → Bool) : (s.timeOutOwn dir p).replay = s.replay := by cases dir <;> rfl
@[simp] theorem State.timeOutOwn_globals (dir : Dir) (p : OwnAccess → Bool) : (s.timeOutOwn dir p).globals = s.globals := by cases dir <;> rfl
@[simp] theorem State.timeOutOwn_faults (dir : Dir) (p : OwnAccess → Bool) : (s.timeOutOwn dir p).faults = s.faults := by cases dir <;> rfl
@[simp] theorem State.timeOutOwn_time (dir : Dir) (p : OwnAccess → Bool) : (s.timeOutOwn dir p).time = s.time := by cases dir <;> rfl
@[simp] theorem State.timeOutOwn_frame (dir : Dir) (p : OwnAccess → Bool) : (s.timeOutOwn dir p).frame = s.frame := by cases dir <;> rfl
@[simp] theorem State.timeOutOwn_pending (dir : Dir) (p : OwnAccess → Bool) : (s.timeOutOwn dir p).pending = s.pending := by cases dir <;> rfl
@[simp] theorem State.timeOutOwn_dom (dir : Dir) (p : OwnAccess → Bool) (o : DomId) : (s.timeOutOwn dir p).dom o = s.dom o := by cases dir <;> rfl
@[simp] theorem State.timeOutOwn_slot (dir : Dir) (p : OwnAccess → Bool) (j : SlotId) : (s.timeOutOwn dir p).slot j = s.slot j := by cases dir <;> rfl
@[simp] theorem State.timeOutOwn_filterSet (dir : Dir) (p : OwnAccess → Bool) (n : Fin 512) : (s.timeOutOwn dir p).filterSet n = s.filterSet n := by cases dir <;> rfl
@[simp] theorem State.timeOutOwn_up (dir : Dir) (p : OwnAccess → Bool) (dr : Dir) : (s.timeOutOwn dir p).up dr = s.up dr := by cases dir <;> rfl
@[simp] theorem State.timeOutOwn_inReset (dir : Dir) (p : OwnAccess → Bool) : (s.timeOutOwn dir p).inReset = s.inReset := by cases dir <;> rfl

/-! ### setWalk -/

@[simp] theorem State.setWalk_pins (w : Option Walk) : (s.setWalk w).pins = s.pins := rfl
@[simp] theorem State.setWalk_host (w : Option Walk) : (s.setWalk w).host = s.host := rfl
@[simp] theorem State.setWalk_mem (w : Option Walk) : (s.setWalk w).mem = s.mem := rfl
@[simp] theorem State.setWalk_regions (w : Option Walk) : (s.setWalk w).regions = s.regions := rfl
@[simp] theorem State.setWalk_domains (w : Option Walk) : (s.setWalk w).domains = s.domains := rfl
@[simp] theorem State.setWalk_slots (w : Option Walk) : (s.setWalk w).slots = s.slots := rfl
@[simp] theorem State.setWalk_filter (w : Option Walk) : (s.setWalk w).filter = s.filter := rfl
@[simp] theorem State.setWalk_sweep (w : Option Walk) : (s.setWalk w).sweep = s.sweep := rfl
@[simp] theorem State.setWalk_hold (w : Option Walk) : (s.setWalk w).hold = s.hold := rfl
@[simp] theorem State.setWalk_globals (w : Option Walk) : (s.setWalk w).globals = s.globals := rfl
@[simp] theorem State.setWalk_faults (w : Option Walk) : (s.setWalk w).faults = s.faults := rfl
@[simp] theorem State.setWalk_time (w : Option Walk) : (s.setWalk w).time = s.time := rfl
@[simp] theorem State.setWalk_frame (w : Option Walk) : (s.setWalk w).frame = s.frame := rfl
@[simp] theorem State.setWalk_pending (w : Option Walk) : (s.setWalk w).pending = s.pending := rfl
@[simp] theorem State.setWalk_dom (w : Option Walk) (o : DomId) : (s.setWalk w).dom o = s.dom o := rfl
@[simp] theorem State.setWalk_slot (w : Option Walk) (j : SlotId) : (s.setWalk w).slot j = s.slot j := rfl
@[simp] theorem State.setWalk_filterSet (w : Option Walk) (n : Fin 512) : (s.setWalk w).filterSet n = s.filterSet n := rfl
@[simp] theorem State.setWalk_side (w : Option Walk) (dr : Dir) : (s.setWalk w).side dr = s.side dr := rfl
@[simp] theorem State.setWalk_up (w : Option Walk) (dr : Dir) : (s.setWalk w).up dr = s.up dr := rfl
@[simp] theorem State.setWalk_inReset (w : Option Walk) : (s.setWalk w).inReset = s.inReset := rfl

/-! ### setRegion -/

@[simp] theorem State.setRegion_pins (i : Fin 16) (r : Region) : (s.setRegion i r).pins = s.pins := rfl
@[simp] theorem State.setRegion_host (i : Fin 16) (r : Region) : (s.setRegion i r).host = s.host := rfl
@[simp] theorem State.setRegion_mem (i : Fin 16) (r : Region) : (s.setRegion i r).mem = s.mem := rfl
@[simp] theorem State.setRegion_domains (i : Fin 16) (r : Region) : (s.setRegion i r).domains = s.domains := rfl
@[simp] theorem State.setRegion_slots (i : Fin 16) (r : Region) : (s.setRegion i r).slots = s.slots := rfl
@[simp] theorem State.setRegion_filter (i : Fin 16) (r : Region) : (s.setRegion i r).filter = s.filter := rfl
@[simp] theorem State.setRegion_sweep (i : Fin 16) (r : Region) : (s.setRegion i r).sweep = s.sweep := rfl
@[simp] theorem State.setRegion_hold (i : Fin 16) (r : Region) : (s.setRegion i r).hold = s.hold := rfl
@[simp] theorem State.setRegion_replay (i : Fin 16) (r : Region) : (s.setRegion i r).replay = s.replay := rfl
@[simp] theorem State.setRegion_globals (i : Fin 16) (r : Region) : (s.setRegion i r).globals = s.globals := rfl
@[simp] theorem State.setRegion_faults (i : Fin 16) (r : Region) : (s.setRegion i r).faults = s.faults := rfl
@[simp] theorem State.setRegion_time (i : Fin 16) (r : Region) : (s.setRegion i r).time = s.time := rfl
@[simp] theorem State.setRegion_frame (i : Fin 16) (r : Region) : (s.setRegion i r).frame = s.frame := rfl
@[simp] theorem State.setRegion_pending (i : Fin 16) (r : Region) : (s.setRegion i r).pending = s.pending := rfl
@[simp] theorem State.setRegion_dom (i : Fin 16) (r : Region) (o : DomId) : (s.setRegion i r).dom o = s.dom o := rfl
@[simp] theorem State.setRegion_slot (i : Fin 16) (r : Region) (j : SlotId) : (s.setRegion i r).slot j = s.slot j := rfl
@[simp] theorem State.setRegion_filterSet (i : Fin 16) (r : Region) (n : Fin 512) : (s.setRegion i r).filterSet n = s.filterSet n := rfl
@[simp] theorem State.setRegion_side (i : Fin 16) (r : Region) (dr : Dir) : (s.setRegion i r).side dr = s.side dr := rfl
@[simp] theorem State.setRegion_up (i : Fin 16) (r : Region) (dr : Dir) : (s.setRegion i r).up dr = s.up dr := rfl
@[simp] theorem State.setRegion_inReset (i : Fin 16) (r : Region) : (s.setRegion i r).inReset = s.inReset := rfl

/-! ### raise -/

@[simp] theorem State.raise_pins (e : Event) : (s.raise e).pins = s.pins := rfl
@[simp] theorem State.raise_host (e : Event) : (s.raise e).host = s.host := rfl
@[simp] theorem State.raise_mem (e : Event) : (s.raise e).mem = s.mem := rfl
@[simp] theorem State.raise_regions (e : Event) : (s.raise e).regions = s.regions := rfl
@[simp] theorem State.raise_domains (e : Event) : (s.raise e).domains = s.domains := rfl
@[simp] theorem State.raise_slots (e : Event) : (s.raise e).slots = s.slots := rfl
@[simp] theorem State.raise_filter (e : Event) : (s.raise e).filter = s.filter := rfl
@[simp] theorem State.raise_sweep (e : Event) : (s.raise e).sweep = s.sweep := rfl
@[simp] theorem State.raise_hold (e : Event) : (s.raise e).hold = s.hold := rfl
@[simp] theorem State.raise_replay (e : Event) : (s.raise e).replay = s.replay := rfl
@[simp] theorem State.raise_globals (e : Event) : (s.raise e).globals = s.globals := rfl
@[simp] theorem State.raise_time (e : Event) : (s.raise e).time = s.time := rfl
@[simp] theorem State.raise_frame (e : Event) : (s.raise e).frame = s.frame := rfl
@[simp] theorem State.raise_pending (e : Event) : (s.raise e).pending = s.pending := rfl
@[simp] theorem State.raise_dom (e : Event) (o : DomId) : (s.raise e).dom o = s.dom o := rfl
@[simp] theorem State.raise_slot (e : Event) (j : SlotId) : (s.raise e).slot j = s.slot j := rfl
@[simp] theorem State.raise_filterSet (e : Event) (n : Fin 512) : (s.raise e).filterSet n = s.filterSet n := rfl
@[simp] theorem State.raise_side (e : Event) (dr : Dir) : (s.raise e).side dr = s.side dr := rfl
@[simp] theorem State.raise_up (e : Event) (dr : Dir) : (s.raise e).up dr = s.up dr := rfl
@[simp] theorem State.raise_inReset (e : Event) : (s.raise e).inReset = s.inReset := rfl

/-! ### countGlobal -/

@[simp] theorem State.countGlobal_pins (c : GlobalCounter) : (s.countGlobal c).pins = s.pins := rfl
@[simp] theorem State.countGlobal_host (c : GlobalCounter) : (s.countGlobal c).host = s.host := rfl
@[simp] theorem State.countGlobal_mem (c : GlobalCounter) : (s.countGlobal c).mem = s.mem := rfl
@[simp] theorem State.countGlobal_regions (c : GlobalCounter) : (s.countGlobal c).regions = s.regions := rfl
@[simp] theorem State.countGlobal_domains (c : GlobalCounter) : (s.countGlobal c).domains = s.domains := rfl
@[simp] theorem State.countGlobal_slots (c : GlobalCounter) : (s.countGlobal c).slots = s.slots := rfl
@[simp] theorem State.countGlobal_filter (c : GlobalCounter) : (s.countGlobal c).filter = s.filter := rfl
@[simp] theorem State.countGlobal_sweep (c : GlobalCounter) : (s.countGlobal c).sweep = s.sweep := rfl
@[simp] theorem State.countGlobal_hold (c : GlobalCounter) : (s.countGlobal c).hold = s.hold := rfl
@[simp] theorem State.countGlobal_replay (c : GlobalCounter) : (s.countGlobal c).replay = s.replay := rfl
@[simp] theorem State.countGlobal_faults (c : GlobalCounter) : (s.countGlobal c).faults = s.faults := rfl
@[simp] theorem State.countGlobal_time (c : GlobalCounter) : (s.countGlobal c).time = s.time := rfl
@[simp] theorem State.countGlobal_frame (c : GlobalCounter) : (s.countGlobal c).frame = s.frame := rfl
@[simp] theorem State.countGlobal_pending (c : GlobalCounter) : (s.countGlobal c).pending = s.pending := rfl
@[simp] theorem State.countGlobal_dom (c : GlobalCounter) (o : DomId) : (s.countGlobal c).dom o = s.dom o := rfl
@[simp] theorem State.countGlobal_slot (c : GlobalCounter) (j : SlotId) : (s.countGlobal c).slot j = s.slot j := rfl
@[simp] theorem State.countGlobal_filterSet (c : GlobalCounter) (n : Fin 512) : (s.countGlobal c).filterSet n = s.filterSet n := rfl
@[simp] theorem State.countGlobal_side (c : GlobalCounter) (dr : Dir) : (s.countGlobal c).side dr = s.side dr := rfl
@[simp] theorem State.countGlobal_up (c : GlobalCounter) (dr : Dir) : (s.countGlobal c).up dr = s.up dr := rfl
@[simp] theorem State.countGlobal_inReset (c : GlobalCounter) : (s.countGlobal c).inReset = s.inReset := rfl

/-! ### setMark -/

@[simp] theorem State.setMark_pins (a : Nat) (m : Mark) : (s.setMark a m).pins = s.pins := rfl
@[simp] theorem State.setMark_mem (a : Nat) (m : Mark) : (s.setMark a m).mem = s.mem := rfl
@[simp] theorem State.setMark_regions (a : Nat) (m : Mark) : (s.setMark a m).regions = s.regions := rfl
@[simp] theorem State.setMark_domains (a : Nat) (m : Mark) : (s.setMark a m).domains = s.domains := rfl
@[simp] theorem State.setMark_slots (a : Nat) (m : Mark) : (s.setMark a m).slots = s.slots := rfl
@[simp] theorem State.setMark_filter (a : Nat) (m : Mark) : (s.setMark a m).filter = s.filter := rfl
@[simp] theorem State.setMark_sweep (a : Nat) (m : Mark) : (s.setMark a m).sweep = s.sweep := rfl
@[simp] theorem State.setMark_hold (a : Nat) (m : Mark) : (s.setMark a m).hold = s.hold := rfl
@[simp] theorem State.setMark_replay (a : Nat) (m : Mark) : (s.setMark a m).replay = s.replay := rfl
@[simp] theorem State.setMark_globals (a : Nat) (m : Mark) : (s.setMark a m).globals = s.globals := rfl
@[simp] theorem State.setMark_faults (a : Nat) (m : Mark) : (s.setMark a m).faults = s.faults := rfl
@[simp] theorem State.setMark_time (a : Nat) (m : Mark) : (s.setMark a m).time = s.time := rfl
@[simp] theorem State.setMark_frame (a : Nat) (m : Mark) : (s.setMark a m).frame = s.frame := rfl
@[simp] theorem State.setMark_pending (a : Nat) (m : Mark) : (s.setMark a m).pending = s.pending := rfl
@[simp] theorem State.setMark_dom (a : Nat) (m : Mark) (o : DomId) : (s.setMark a m).dom o = s.dom o := rfl
@[simp] theorem State.setMark_slot (a : Nat) (m : Mark) (j : SlotId) : (s.setMark a m).slot j = s.slot j := rfl
@[simp] theorem State.setMark_filterSet (a : Nat) (m : Mark) (n : Fin 512) : (s.setMark a m).filterSet n = s.filterSet n := rfl
@[simp] theorem State.setMark_side (a : Nat) (m : Mark) (dr : Dir) : (s.setMark a m).side dr = s.side dr := rfl
@[simp] theorem State.setMark_inReset (a : Nat) (m : Mark) : (s.setMark a m).inReset = s.inReset := rfl

/-! ### dropUnanswered -/

@[simp] theorem State.dropUnanswered_pins (a : Nat) : (s.dropUnanswered a).pins = s.pins := rfl
@[simp] theorem State.dropUnanswered_mem (a : Nat) : (s.dropUnanswered a).mem = s.mem := rfl
@[simp] theorem State.dropUnanswered_regions (a : Nat) : (s.dropUnanswered a).regions = s.regions := rfl
@[simp] theorem State.dropUnanswered_domains (a : Nat) : (s.dropUnanswered a).domains = s.domains := rfl
@[simp] theorem State.dropUnanswered_slots (a : Nat) : (s.dropUnanswered a).slots = s.slots := rfl
@[simp] theorem State.dropUnanswered_filter (a : Nat) : (s.dropUnanswered a).filter = s.filter := rfl
@[simp] theorem State.dropUnanswered_sweep (a : Nat) : (s.dropUnanswered a).sweep = s.sweep := rfl
@[simp] theorem State.dropUnanswered_hold (a : Nat) : (s.dropUnanswered a).hold = s.hold := rfl
@[simp] theorem State.dropUnanswered_replay (a : Nat) : (s.dropUnanswered a).replay = s.replay := rfl
@[simp] theorem State.dropUnanswered_globals (a : Nat) : (s.dropUnanswered a).globals = s.globals := rfl
@[simp] theorem State.dropUnanswered_faults (a : Nat) : (s.dropUnanswered a).faults = s.faults := rfl
@[simp] theorem State.dropUnanswered_time (a : Nat) : (s.dropUnanswered a).time = s.time := rfl
@[simp] theorem State.dropUnanswered_frame (a : Nat) : (s.dropUnanswered a).frame = s.frame := rfl
@[simp] theorem State.dropUnanswered_pending (a : Nat) : (s.dropUnanswered a).pending = s.pending := rfl
@[simp] theorem State.dropUnanswered_dom (a : Nat) (o : DomId) : (s.dropUnanswered a).dom o = s.dom o := rfl
@[simp] theorem State.dropUnanswered_slot (a : Nat) (j : SlotId) : (s.dropUnanswered a).slot j = s.slot j := rfl
@[simp] theorem State.dropUnanswered_filterSet (a : Nat) (n : Fin 512) : (s.dropUnanswered a).filterSet n = s.filterSet n := rfl
@[simp] theorem State.dropUnanswered_side (a : Nat) (dr : Dir) : (s.dropUnanswered a).side dr = s.side dr := rfl
@[simp] theorem State.dropUnanswered_inReset (a : Nat) : (s.dropUnanswered a).inReset = s.inReset := rfl

/-! ### dropEntry -/

@[simp] theorem State.dropEntry_pins (a : Nat) : (s.dropEntry a).pins = s.pins := rfl
@[simp] theorem State.dropEntry_host (a : Nat) : (s.dropEntry a).host = s.host := rfl
@[simp] theorem State.dropEntry_mem (a : Nat) : (s.dropEntry a).mem = s.mem := rfl
@[simp] theorem State.dropEntry_regions (a : Nat) : (s.dropEntry a).regions = s.regions := rfl
@[simp] theorem State.dropEntry_domains (a : Nat) : (s.dropEntry a).domains = s.domains := rfl
@[simp] theorem State.dropEntry_slots (a : Nat) : (s.dropEntry a).slots = s.slots := rfl
@[simp] theorem State.dropEntry_filter (a : Nat) : (s.dropEntry a).filter = s.filter := rfl
@[simp] theorem State.dropEntry_sweep (a : Nat) : (s.dropEntry a).sweep = s.sweep := rfl
@[simp] theorem State.dropEntry_replay (a : Nat) : (s.dropEntry a).replay = s.replay := rfl
@[simp] theorem State.dropEntry_globals (a : Nat) : (s.dropEntry a).globals = s.globals := rfl
@[simp] theorem State.dropEntry_faults (a : Nat) : (s.dropEntry a).faults = s.faults := rfl
@[simp] theorem State.dropEntry_time (a : Nat) : (s.dropEntry a).time = s.time := rfl
@[simp] theorem State.dropEntry_frame (a : Nat) : (s.dropEntry a).frame = s.frame := rfl
@[simp] theorem State.dropEntry_pending (a : Nat) : (s.dropEntry a).pending = s.pending := rfl
@[simp] theorem State.dropEntry_dom (a : Nat) (o : DomId) : (s.dropEntry a).dom o = s.dom o := rfl
@[simp] theorem State.dropEntry_slot (a : Nat) (j : SlotId) : (s.dropEntry a).slot j = s.slot j := rfl
@[simp] theorem State.dropEntry_filterSet (a : Nat) (n : Fin 512) : (s.dropEntry a).filterSet n = s.filterSet n := rfl
@[simp] theorem State.dropEntry_side (a : Nat) (dr : Dir) : (s.dropEntry a).side dr = s.side dr := rfl
@[simp] theorem State.dropEntry_up (a : Nat) (dr : Dir) : (s.dropEntry a).up dr = s.up dr := rfl
@[simp] theorem State.dropEntry_inReset (a : Nat) : (s.dropEntry a).inReset = s.inReset := rfl

/-! ### replaceEntry -/

@[simp] theorem State.replaceEntry_pins (e : Entry) : (s.replaceEntry e).pins = s.pins := rfl
@[simp] theorem State.replaceEntry_host (e : Entry) : (s.replaceEntry e).host = s.host := rfl
@[simp] theorem State.replaceEntry_mem (e : Entry) : (s.replaceEntry e).mem = s.mem := rfl
@[simp] theorem State.replaceEntry_regions (e : Entry) : (s.replaceEntry e).regions = s.regions := rfl
@[simp] theorem State.replaceEntry_domains (e : Entry) : (s.replaceEntry e).domains = s.domains := rfl
@[simp] theorem State.replaceEntry_slots (e : Entry) : (s.replaceEntry e).slots = s.slots := rfl
@[simp] theorem State.replaceEntry_filter (e : Entry) : (s.replaceEntry e).filter = s.filter := rfl
@[simp] theorem State.replaceEntry_sweep (e : Entry) : (s.replaceEntry e).sweep = s.sweep := rfl
@[simp] theorem State.replaceEntry_replay (e : Entry) : (s.replaceEntry e).replay = s.replay := rfl
@[simp] theorem State.replaceEntry_globals (e : Entry) : (s.replaceEntry e).globals = s.globals := rfl
@[simp] theorem State.replaceEntry_faults (e : Entry) : (s.replaceEntry e).faults = s.faults := rfl
@[simp] theorem State.replaceEntry_time (e : Entry) : (s.replaceEntry e).time = s.time := rfl
@[simp] theorem State.replaceEntry_frame (e : Entry) : (s.replaceEntry e).frame = s.frame := rfl
@[simp] theorem State.replaceEntry_pending (e : Entry) : (s.replaceEntry e).pending = s.pending := rfl
@[simp] theorem State.replaceEntry_dom (e : Entry) (o : DomId) : (s.replaceEntry e).dom o = s.dom o := rfl
@[simp] theorem State.replaceEntry_slot (e : Entry) (j : SlotId) : (s.replaceEntry e).slot j = s.slot j := rfl
@[simp] theorem State.replaceEntry_filterSet (e : Entry) (n : Fin 512) : (s.replaceEntry e).filterSet n = s.filterSet n := rfl
@[simp] theorem State.replaceEntry_side (e : Entry) (dr : Dir) : (s.replaceEntry e).side dr = s.side dr := rfl
@[simp] theorem State.replaceEntry_up (e : Entry) (dr : Dir) : (s.replaceEntry e).up dr = s.up dr := rfl
@[simp] theorem State.replaceEntry_inReset (e : Entry) : (s.replaceEntry e).inReset = s.inReset := rfl

/-! ### setEventMask -/

@[simp] theorem State.setEventMask_pins (m : BitVec 19) : (s.setEventMask m).pins = s.pins := rfl
@[simp] theorem State.setEventMask_host (m : BitVec 19) : (s.setEventMask m).host = s.host := rfl
@[simp] theorem State.setEventMask_mem (m : BitVec 19) : (s.setEventMask m).mem = s.mem := rfl
@[simp] theorem State.setEventMask_regions (m : BitVec 19) : (s.setEventMask m).regions = s.regions := rfl
@[simp] theorem State.setEventMask_domains (m : BitVec 19) : (s.setEventMask m).domains = s.domains := rfl
@[simp] theorem State.setEventMask_slots (m : BitVec 19) : (s.setEventMask m).slots = s.slots := rfl
@[simp] theorem State.setEventMask_filter (m : BitVec 19) : (s.setEventMask m).filter = s.filter := rfl
@[simp] theorem State.setEventMask_sweep (m : BitVec 19) : (s.setEventMask m).sweep = s.sweep := rfl
@[simp] theorem State.setEventMask_hold (m : BitVec 19) : (s.setEventMask m).hold = s.hold := rfl
@[simp] theorem State.setEventMask_replay (m : BitVec 19) : (s.setEventMask m).replay = s.replay := rfl
@[simp] theorem State.setEventMask_globals (m : BitVec 19) : (s.setEventMask m).globals = s.globals := rfl
@[simp] theorem State.setEventMask_time (m : BitVec 19) : (s.setEventMask m).time = s.time := rfl
@[simp] theorem State.setEventMask_frame (m : BitVec 19) : (s.setEventMask m).frame = s.frame := rfl
@[simp] theorem State.setEventMask_pending (m : BitVec 19) : (s.setEventMask m).pending = s.pending := rfl
@[simp] theorem State.setEventMask_dom (m : BitVec 19) (o : DomId) : (s.setEventMask m).dom o = s.dom o := rfl
@[simp] theorem State.setEventMask_slot (m : BitVec 19) (j : SlotId) : (s.setEventMask m).slot j = s.slot j := rfl
@[simp] theorem State.setEventMask_filterSet (m : BitVec 19) (n : Fin 512) : (s.setEventMask m).filterSet n = s.filterSet n := rfl
@[simp] theorem State.setEventMask_side (m : BitVec 19) (dr : Dir) : (s.setEventMask m).side dr = s.side dr := rfl
@[simp] theorem State.setEventMask_up (m : BitVec 19) (dr : Dir) : (s.setEventMask m).up dr = s.up dr := rfl
@[simp] theorem State.setEventMask_inReset (m : BitVec 19) : (s.setEventMask m).inReset = s.inReset := rfl

/-! ### clearFlags -/

@[simp] theorem State.clearFlags_pins (b : BitVec 19) : (s.clearFlags b).pins = s.pins := rfl
@[simp] theorem State.clearFlags_host (b : BitVec 19) : (s.clearFlags b).host = s.host := rfl
@[simp] theorem State.clearFlags_mem (b : BitVec 19) : (s.clearFlags b).mem = s.mem := rfl
@[simp] theorem State.clearFlags_regions (b : BitVec 19) : (s.clearFlags b).regions = s.regions := rfl
@[simp] theorem State.clearFlags_domains (b : BitVec 19) : (s.clearFlags b).domains = s.domains := rfl
@[simp] theorem State.clearFlags_slots (b : BitVec 19) : (s.clearFlags b).slots = s.slots := rfl
@[simp] theorem State.clearFlags_filter (b : BitVec 19) : (s.clearFlags b).filter = s.filter := rfl
@[simp] theorem State.clearFlags_sweep (b : BitVec 19) : (s.clearFlags b).sweep = s.sweep := rfl
@[simp] theorem State.clearFlags_hold (b : BitVec 19) : (s.clearFlags b).hold = s.hold := rfl
@[simp] theorem State.clearFlags_replay (b : BitVec 19) : (s.clearFlags b).replay = s.replay := rfl
@[simp] theorem State.clearFlags_globals (b : BitVec 19) : (s.clearFlags b).globals = s.globals := rfl
@[simp] theorem State.clearFlags_time (b : BitVec 19) : (s.clearFlags b).time = s.time := rfl
@[simp] theorem State.clearFlags_frame (b : BitVec 19) : (s.clearFlags b).frame = s.frame := rfl
@[simp] theorem State.clearFlags_pending (b : BitVec 19) : (s.clearFlags b).pending = s.pending := rfl
@[simp] theorem State.clearFlags_dom (b : BitVec 19) (o : DomId) : (s.clearFlags b).dom o = s.dom o := rfl
@[simp] theorem State.clearFlags_slot (b : BitVec 19) (j : SlotId) : (s.clearFlags b).slot j = s.slot j := rfl
@[simp] theorem State.clearFlags_filterSet (b : BitVec 19) (n : Fin 512) : (s.clearFlags b).filterSet n = s.filterSet n := rfl
@[simp] theorem State.clearFlags_side (b : BitVec 19) (dr : Dir) : (s.clearFlags b).side dr = s.side dr := rfl
@[simp] theorem State.clearFlags_up (b : BitVec 19) (dr : Dir) : (s.clearFlags b).up dr = s.up dr := rfl
@[simp] theorem State.clearFlags_inReset (b : BitVec 19) : (s.clearFlags b).inReset = s.inReset := rfl

/-! ### setTimes -/

@[simp] theorem State.setTimes_pins (x y z : Nat) : (s.setTimes x y z).pins = s.pins := rfl
@[simp] theorem State.setTimes_host (x y z : Nat) : (s.setTimes x y z).host = s.host := rfl
@[simp] theorem State.setTimes_mem (x y z : Nat) : (s.setTimes x y z).mem = s.mem := rfl
@[simp] theorem State.setTimes_regions (x y z : Nat) : (s.setTimes x y z).regions = s.regions := rfl
@[simp] theorem State.setTimes_domains (x y z : Nat) : (s.setTimes x y z).domains = s.domains := rfl
@[simp] theorem State.setTimes_slots (x y z : Nat) : (s.setTimes x y z).slots = s.slots := rfl
@[simp] theorem State.setTimes_filter (x y z : Nat) : (s.setTimes x y z).filter = s.filter := rfl
@[simp] theorem State.setTimes_sweep (x y z : Nat) : (s.setTimes x y z).sweep = s.sweep := rfl
@[simp] theorem State.setTimes_hold (x y z : Nat) : (s.setTimes x y z).hold = s.hold := rfl
@[simp] theorem State.setTimes_replay (x y z : Nat) : (s.setTimes x y z).replay = s.replay := rfl
@[simp] theorem State.setTimes_globals (x y z : Nat) : (s.setTimes x y z).globals = s.globals := rfl
@[simp] theorem State.setTimes_faults (x y z : Nat) : (s.setTimes x y z).faults = s.faults := rfl
@[simp] theorem State.setTimes_frame (x y z : Nat) : (s.setTimes x y z).frame = s.frame := rfl
@[simp] theorem State.setTimes_pending (x y z : Nat) : (s.setTimes x y z).pending = s.pending := rfl
@[simp] theorem State.setTimes_dom (x y z : Nat) (o : DomId) : (s.setTimes x y z).dom o = s.dom o := rfl
@[simp] theorem State.setTimes_slot (x y z : Nat) (j : SlotId) : (s.setTimes x y z).slot j = s.slot j := rfl
@[simp] theorem State.setTimes_filterSet (x y z : Nat) (n : Fin 512) : (s.setTimes x y z).filterSet n = s.filterSet n := rfl
@[simp] theorem State.setTimes_side (x y z : Nat) (dr : Dir) : (s.setTimes x y z).side dr = s.side dr := rfl
@[simp] theorem State.setTimes_up (x y z : Nat) (dr : Dir) : (s.setTimes x y z).up dr = s.up dr := rfl
@[simp] theorem State.setTimes_inReset (x y z : Nat) : (s.setTimes x y z).inReset = s.inReset := rfl

/-! ### setLatch -/

@[simp] theorem State.setLatch_pins (l : Latch) : (s.setLatch l).pins = s.pins := rfl
@[simp] theorem State.setLatch_host (l : Latch) : (s.setLatch l).host = s.host := rfl
@[simp] theorem State.setLatch_mem (l : Latch) : (s.setLatch l).mem = s.mem := rfl
@[simp] theorem State.setLatch_regions (l : Latch) : (s.setLatch l).regions = s.regions := rfl
@[simp] theorem State.setLatch_domains (l : Latch) : (s.setLatch l).domains = s.domains := rfl
@[simp] theorem State.setLatch_slots (l : Latch) : (s.setLatch l).slots = s.slots := rfl
@[simp] theorem State.setLatch_filter (l : Latch) : (s.setLatch l).filter = s.filter := rfl
@[simp] theorem State.setLatch_sweep (l : Latch) : (s.setLatch l).sweep = s.sweep := rfl
@[simp] theorem State.setLatch_hold (l : Latch) : (s.setLatch l).hold = s.hold := rfl
@[simp] theorem State.setLatch_replay (l : Latch) : (s.setLatch l).replay = s.replay := rfl
@[simp] theorem State.setLatch_globals (l : Latch) : (s.setLatch l).globals = s.globals := rfl
@[simp] theorem State.setLatch_faults (l : Latch) : (s.setLatch l).faults = s.faults := rfl
@[simp] theorem State.setLatch_time (l : Latch) : (s.setLatch l).time = s.time := rfl
@[simp] theorem State.setLatch_pending (l : Latch) : (s.setLatch l).pending = s.pending := rfl
@[simp] theorem State.setLatch_dom (l : Latch) (o : DomId) : (s.setLatch l).dom o = s.dom o := rfl
@[simp] theorem State.setLatch_slot (l : Latch) (j : SlotId) : (s.setLatch l).slot j = s.slot j := rfl
@[simp] theorem State.setLatch_filterSet (l : Latch) (n : Fin 512) : (s.setLatch l).filterSet n = s.filterSet n := rfl
@[simp] theorem State.setLatch_side (l : Latch) (dr : Dir) : (s.setLatch l).side dr = s.side dr := rfl
@[simp] theorem State.setLatch_up (l : Latch) (dr : Dir) : (s.setLatch l).up dr = s.up dr := rfl
@[simp] theorem State.setLatch_inReset (l : Latch) : (s.setLatch l).inReset = s.inReset := rfl

/-! ### setCsN -/

@[simp] theorem State.setCsN_host (b : Bool) : (s.setCsN b).host = s.host := rfl
@[simp] theorem State.setCsN_mem (b : Bool) : (s.setCsN b).mem = s.mem := rfl
@[simp] theorem State.setCsN_regions (b : Bool) : (s.setCsN b).regions = s.regions := rfl
@[simp] theorem State.setCsN_domains (b : Bool) : (s.setCsN b).domains = s.domains := rfl
@[simp] theorem State.setCsN_slots (b : Bool) : (s.setCsN b).slots = s.slots := rfl
@[simp] theorem State.setCsN_filter (b : Bool) : (s.setCsN b).filter = s.filter := rfl
@[simp] theorem State.setCsN_sweep (b : Bool) : (s.setCsN b).sweep = s.sweep := rfl
@[simp] theorem State.setCsN_hold (b : Bool) : (s.setCsN b).hold = s.hold := rfl
@[simp] theorem State.setCsN_replay (b : Bool) : (s.setCsN b).replay = s.replay := rfl
@[simp] theorem State.setCsN_globals (b : Bool) : (s.setCsN b).globals = s.globals := rfl
@[simp] theorem State.setCsN_faults (b : Bool) : (s.setCsN b).faults = s.faults := rfl
@[simp] theorem State.setCsN_time (b : Bool) : (s.setCsN b).time = s.time := rfl
@[simp] theorem State.setCsN_frame (b : Bool) : (s.setCsN b).frame = s.frame := rfl
@[simp] theorem State.setCsN_pending (b : Bool) : (s.setCsN b).pending = s.pending := rfl
@[simp] theorem State.setCsN_dom (b : Bool) (o : DomId) : (s.setCsN b).dom o = s.dom o := rfl
@[simp] theorem State.setCsN_slot (b : Bool) (j : SlotId) : (s.setCsN b).slot j = s.slot j := rfl
@[simp] theorem State.setCsN_filterSet (b : Bool) (n : Fin 512) : (s.setCsN b).filterSet n = s.filterSet n := rfl
@[simp] theorem State.setCsN_side (b : Bool) (dr : Dir) : (s.setCsN b).side dr = s.side dr := rfl
@[simp] theorem State.setCsN_up (b : Bool) (dr : Dir) : (s.setCsN b).up dr = s.up dr := rfl

/-! ### answer -/

@[simp] theorem State.answer_pins (q r : List Byte) : (s.answer q r).pins = s.pins := rfl
@[simp] theorem State.answer_host (q r : List Byte) : (s.answer q r).host = s.host := rfl
@[simp] theorem State.answer_mem (q r : List Byte) : (s.answer q r).mem = s.mem := rfl
@[simp] theorem State.answer_regions (q r : List Byte) : (s.answer q r).regions = s.regions := rfl
@[simp] theorem State.answer_domains (q r : List Byte) : (s.answer q r).domains = s.domains := rfl
@[simp] theorem State.answer_slots (q r : List Byte) : (s.answer q r).slots = s.slots := rfl
@[simp] theorem State.answer_filter (q r : List Byte) : (s.answer q r).filter = s.filter := rfl
@[simp] theorem State.answer_sweep (q r : List Byte) : (s.answer q r).sweep = s.sweep := rfl
@[simp] theorem State.answer_hold (q r : List Byte) : (s.answer q r).hold = s.hold := rfl
@[simp] theorem State.answer_replay (q r : List Byte) : (s.answer q r).replay = s.replay := rfl
@[simp] theorem State.answer_globals (q r : List Byte) : (s.answer q r).globals = s.globals := rfl
@[simp] theorem State.answer_faults (q r : List Byte) : (s.answer q r).faults = s.faults := rfl
@[simp] theorem State.answer_time (q r : List Byte) : (s.answer q r).time = s.time := rfl
@[simp] theorem State.answer_pending (q r : List Byte) : (s.answer q r).pending = s.pending := rfl
@[simp] theorem State.answer_dom (q r : List Byte) (o : DomId) : (s.answer q r).dom o = s.dom o := rfl
@[simp] theorem State.answer_slot (q r : List Byte) (j : SlotId) : (s.answer q r).slot j = s.slot j := rfl
@[simp] theorem State.answer_filterSet (q r : List Byte) (n : Fin 512) : (s.answer q r).filterSet n = s.filterSet n := rfl
@[simp] theorem State.answer_side (q r : List Byte) (dr : Dir) : (s.answer q r).side dr = s.side dr := rfl
@[simp] theorem State.answer_up (q r : List Byte) (dr : Dir) : (s.answer q r).up dr = s.up dr := rfl
@[simp] theorem State.answer_inReset (q r : List Byte) : (s.answer q r).inReset = s.inReset := rfl

/-! ### reply -/

@[simp] theorem State.reply_pins (op : Byte) (as : List Byte) (st : Status) (bs : List Byte) : (s.reply op as st bs).pins = s.pins := rfl
@[simp] theorem State.reply_host (op : Byte) (as : List Byte) (st : Status) (bs : List Byte) : (s.reply op as st bs).host = s.host := rfl
@[simp] theorem State.reply_mem (op : Byte) (as : List Byte) (st : Status) (bs : List Byte) : (s.reply op as st bs).mem = s.mem := rfl
@[simp] theorem State.reply_regions (op : Byte) (as : List Byte) (st : Status) (bs : List Byte) : (s.reply op as st bs).regions = s.regions := rfl
@[simp] theorem State.reply_domains (op : Byte) (as : List Byte) (st : Status) (bs : List Byte) : (s.reply op as st bs).domains = s.domains := rfl
@[simp] theorem State.reply_slots (op : Byte) (as : List Byte) (st : Status) (bs : List Byte) : (s.reply op as st bs).slots = s.slots := rfl
@[simp] theorem State.reply_filter (op : Byte) (as : List Byte) (st : Status) (bs : List Byte) : (s.reply op as st bs).filter = s.filter := rfl
@[simp] theorem State.reply_sweep (op : Byte) (as : List Byte) (st : Status) (bs : List Byte) : (s.reply op as st bs).sweep = s.sweep := rfl
@[simp] theorem State.reply_hold (op : Byte) (as : List Byte) (st : Status) (bs : List Byte) : (s.reply op as st bs).hold = s.hold := rfl
@[simp] theorem State.reply_replay (op : Byte) (as : List Byte) (st : Status) (bs : List Byte) : (s.reply op as st bs).replay = s.replay := rfl
@[simp] theorem State.reply_globals (op : Byte) (as : List Byte) (st : Status) (bs : List Byte) : (s.reply op as st bs).globals = s.globals := rfl
@[simp] theorem State.reply_faults (op : Byte) (as : List Byte) (st : Status) (bs : List Byte) : (s.reply op as st bs).faults = s.faults := rfl
@[simp] theorem State.reply_time (op : Byte) (as : List Byte) (st : Status) (bs : List Byte) : (s.reply op as st bs).time = s.time := rfl
@[simp] theorem State.reply_pending (op : Byte) (as : List Byte) (st : Status) (bs : List Byte) : (s.reply op as st bs).pending = s.pending := rfl
@[simp] theorem State.reply_dom (op : Byte) (as : List Byte) (st : Status) (bs : List Byte) (o : DomId) : (s.reply op as st bs).dom o = s.dom o := rfl
@[simp] theorem State.reply_slot (op : Byte) (as : List Byte) (st : Status) (bs : List Byte) (j : SlotId) : (s.reply op as st bs).slot j = s.slot j := rfl
@[simp] theorem State.reply_filterSet (op : Byte) (as : List Byte) (st : Status) (bs : List Byte) (n : Fin 512) : (s.reply op as st bs).filterSet n = s.filterSet n := rfl
@[simp] theorem State.reply_side (op : Byte) (as : List Byte) (st : Status) (bs : List Byte) (dr : Dir) : (s.reply op as st bs).side dr = s.side dr := rfl
@[simp] theorem State.reply_up (op : Byte) (as : List Byte) (st : Status) (bs : List Byte) (dr : Dir) : (s.reply op as st bs).up dr = s.up dr := rfl
@[simp] theorem State.reply_inReset (op : Byte) (as : List Byte) (st : Status) (bs : List Byte) : (s.reply op as st bs).inReset = s.inReset := rfl

/-! ### advanceTick -/

@[simp] theorem State.advanceTick_pins  : (s.advanceTick).pins = s.pins := rfl
@[simp] theorem State.advanceTick_host  : (s.advanceTick).host = s.host := rfl
@[simp] theorem State.advanceTick_mem  : (s.advanceTick).mem = s.mem := rfl
@[simp] theorem State.advanceTick_regions  : (s.advanceTick).regions = s.regions := rfl
@[simp] theorem State.advanceTick_domains  : (s.advanceTick).domains = s.domains := rfl
@[simp] theorem State.advanceTick_slots  : (s.advanceTick).slots = s.slots := rfl
@[simp] theorem State.advanceTick_filter  : (s.advanceTick).filter = s.filter := rfl
@[simp] theorem State.advanceTick_sweep  : (s.advanceTick).sweep = s.sweep := rfl
@[simp] theorem State.advanceTick_hold  : (s.advanceTick).hold = s.hold := rfl
@[simp] theorem State.advanceTick_replay  : (s.advanceTick).replay = s.replay := rfl
@[simp] theorem State.advanceTick_globals  : (s.advanceTick).globals = s.globals := rfl
@[simp] theorem State.advanceTick_faults  : (s.advanceTick).faults = s.faults := rfl
@[simp] theorem State.advanceTick_frame  : (s.advanceTick).frame = s.frame := rfl
@[simp] theorem State.advanceTick_pending  : (s.advanceTick).pending = s.pending := rfl
@[simp] theorem State.advanceTick_dom  (o : DomId) : (s.advanceTick).dom o = s.dom o := rfl
@[simp] theorem State.advanceTick_slot  (j : SlotId) : (s.advanceTick).slot j = s.slot j := rfl
@[simp] theorem State.advanceTick_filterSet  (n : Fin 512) : (s.advanceTick).filterSet n = s.filterSet n := rfl
@[simp] theorem State.advanceTick_side  (dr : Dir) : (s.advanceTick).side dr = s.side dr := rfl
@[simp] theorem State.advanceTick_up  (dr : Dir) : (s.advanceTick).up dr = s.up dr := rfl
@[simp] theorem State.advanceTick_inReset  : (s.advanceTick).inReset = s.inReset := rfl

/-! ### What an update sets -/

@[simp] theorem State.setDom_dom_self (d : DomId) (x : Domain) : (s.setDom d x).dom d = x := by
  simp [State.setDom, State.dom]

theorem State.setDom_dom_of_ne (d o : DomId) (x : Domain) (h : o ≠ d) : (s.setDom d x).dom o = s.dom o := by
  have : d.val ≠ o.val := fun c => h (Fin.ext c.symm)
  simp [State.setDom, State.dom, Vector.getElem_set_ne, this]

theorem State.setDom_dom (d o : DomId) (x : Domain) : (s.setDom d x).dom o = if o = d then x else s.dom o := by
  split
  · next h => subst h; exact s.setDom_dom_self o x
  · next h => exact s.setDom_dom_of_ne d o x h

@[simp] theorem State.updDom_dom_self (d : DomId) (f : Domain → Domain) : (s.updDom d f).dom d = f (s.dom d) :=
  s.setDom_dom_self d _

theorem State.updDom_dom_of_ne (d o : DomId) (f : Domain → Domain) (h : o ≠ d) : (s.updDom d f).dom o = s.dom o :=
  s.setDom_dom_of_ne d o _ h

theorem State.updDom_dom (d o : DomId) (f : Domain → Domain) :
    (s.updDom d f).dom o = if o = d then f (s.dom d) else s.dom o := s.setDom_dom d o _

@[simp] theorem State.setSlot_slot_self (k : SlotId) (x : Slot) : (s.setSlot k x).slot k = x := by
  simp [State.setSlot, State.slot]

theorem State.setSlot_slot_of_ne (k j : SlotId) (x : Slot) (h : j ≠ k) : (s.setSlot k x).slot j = s.slot j := by
  have : k.val ≠ j.val := fun c => h (Fin.ext c.symm)
  simp [State.setSlot, State.slot, Vector.getElem_set_ne, this]

theorem State.setSlot_slot (k j : SlotId) (x : Slot) : (s.setSlot k x).slot j = if j = k then x else s.slot j := by
  split
  · next h => subst h; exact s.setSlot_slot_self j x
  · next h => exact s.setSlot_slot_of_ne k j x h

@[simp] theorem State.setFilterSet_filterSet_self (i : Fin 512) (x : FilterSet) :
    (s.setFilterSet i x).filterSet i = x := by
  simp [State.setFilterSet, State.filterSet]

theorem State.setFilterSet_filterSet_of_ne (i n : Fin 512) (x : FilterSet) (h : n ≠ i) :
    (s.setFilterSet i x).filterSet n = s.filterSet n := by
  have : i.val ≠ n.val := fun c => h (Fin.ext c.symm)
  simp [State.setFilterSet, State.filterSet, Vector.getElem_set_ne, this]

@[simp] theorem State.setSide_side_self (dir : Dir) (m : MemSide) : (s.setSide dir m).side dir = m := by
  cases dir <;> rfl

theorem State.setSide_side_of_ne (dir w : Dir) (m : MemSide) (h : w ≠ dir) : (s.setSide dir m).side w = s.side w := by
  cases dir <;> cases w <;> first | rfl | exact absurd rfl h

theorem State.setSide_side (dir w : Dir) (m : MemSide) :
    (s.setSide dir m).side w = if w = dir then m else s.side w := by
  cases dir <;> cases w <;> rfl

@[simp] theorem State.setUp_up_self (dir : Dir) (u : Upstream) : (s.setUp dir u).up dir = u := by
  cases dir <;> rfl

@[simp] theorem State.setWalk_walk (w : Option Walk) : (s.setWalk w).replay.walk = w := rfl

@[simp] theorem State.setWalk_waiting (w : Option Walk) : (s.setWalk w).replay.waiting = s.replay.waiting := rfl

@[simp] theorem State.raise_queue (e : Event) : (s.raise e).faults.queue = s.faults.queue := rfl

@[simp] theorem State.raise_lost (e : Event) : (s.raise e).faults.lost = s.faults.lost := rfl

@[simp] theorem State.raise_mask (e : Event) : (s.raise e).faults.mask = s.faults.mask := rfl

@[simp] theorem State.setUp_kept (dir : Dir) (u : Upstream) : (s.setUp dir u).host.kept = s.host.kept := by
  cases dir <;> rfl

@[simp] theorem State.setUp_nextArrival (dir : Dir) (u : Upstream) :
    (s.setUp dir u).host.nextArrival = s.host.nextArrival := by
  cases dir <;> rfl

@[simp] theorem State.setUp_unanswered (dir : Dir) (u : Upstream) :
    (s.setUp dir u).host.unanswered = s.host.unanswered := by
  cases dir <;> rfl

@[simp] theorem State.setMark_kept (a : Nat) (m : Mark) : (s.setMark a m).host.kept = s.host.kept := rfl

@[simp] theorem State.setMark_nextArrival (a : Nat) (m : Mark) :
    (s.setMark a m).host.nextArrival = s.host.nextArrival := rfl

@[simp] theorem State.handOver_side_self (a : OwnAccess) :
    (s.handOver a).side a.dir = { s.side a.dir with own := (s.side a.dir).own ++ [a] } := by
  simp [State.handOver]

/-- A hand-over adds to the own list only: what is outstanding or holds an ID stays (R5). -/
theorem State.handOver_side (a : OwnAccess) (w : Dir) :
    (s.handOver a).side w = { s.side w with own := (s.side w).own ++ if w = a.dir then [a] else [] } := by
  rcases a with ⟨_, _, dir, _⟩
  cases dir <;> cases w <;> simp [State.handOver, State.side, State.setSide]

end Sys2Proof.Machine
end

