-- ==== Sys2Proof/Laws/Closure.lean ====
section
/-! SUPPORT. What the part's shared operations can do, said once: each is a chain of the moves listed in `Closed`. A relation
that is reflexive, transitive and holds of every move therefore holds between the state before and the state after every
shared operation. With the relation "the law holds before, so it holds after", one proof for each move gives a law for every
operation. -/

namespace Sys2Proof.Machine

/-- What an operation may do to a domain record: configuration and slots in use stay, and the occupancy stays outside OFF or
becomes 0. -/
structure DomainMove (x y : Domain) : Prop where
  config : y.config = x.config
  slots : y.slotsInUse = x.slotsInUse
  occupancy : (y.occupancy = x.occupancy ∧ (y.state = x.state ∨ y.state ≠ .off)) ∨ y.occupancy = 0

/-- The conditions under which lines are allocated (R45, R46, R48). -/
structure Allocatable (s : State) (d : DomId) (lines : List Line) : Prop where
  ascending : lines.Pairwise (· < ·)
  uncaptured : ∀ l ∈ lines, s.underCapture l = false
  space : (s.dom d).occupancy + lines.length ≤ (s.dom d).config.capacity
  free : lines.length ≤ s.freeSlots.length

/-- A relation that holds of every move of the part's shared operations. -/
structure Closed (R : State → State → Prop) : Prop where
  refl : ∀ s, R s s
  trans : ∀ {s t u}, R s t → R t u → R s u
  raise : ∀ s e, R s (s.raise e)
  enqueueFault : ∀ s r, R s (s.enqueueFault r)
  countGlobal : ∀ s c, R s (s.countGlobal c)
  domain : ∀ s d y, DomainMove (s.dom d) y → R s (s.setDom d y)
  requestSweep : ∀ s d, R s (s.requestSweep d)
  setMark : ∀ s a m, R s (s.setMark a m)
  dropEntry : ∀ s a, R s (s.dropEntry a)
  rewrite : ∀ (s : State) (g : Entry → Entry), (∀ x, (g x).arrival = x.arrival) → R s { s with hold := s.hold.map g }
  forward : ∀ (s : State) dir f, R s (s.setSide dir { s.side dir with forwarded := (s.side dir).forwarded ++ [f] })
  handOver : ∀ s a, R s (s.handOver a)
  freeId : ∀ s dir id, R s (s.freeId dir id)
  timeOutOwn : ∀ s dir p, R s (s.timeOutOwn dir p)
  handed : ∀ (s : State) k r w, R s (s.setSlot k { s.slot k with readIssued := r, writeHanded := w })
  filled : ∀ (s : State) k b dl, (s.slot k).state = .readOld →
    R s (s.setSlot k { s.slot k with state := .writeRecord, buffer := b, writeHanded := false, deadline := dl })
  freeSlot : ∀ s k, (s.slot k).state ≠ .free → R s (s.freeSlot k)
  allocate : ∀ s d region lines, Allocatable s d lines → R s (s.allocateSlots d region lines)
  insert : ∀ s d l p, R s (s.filterInsert d l p)
  walk : ∀ s w, R s (s.setWalk w)
  waiting : ∀ (s : State) l, R s { s with replay := { s.replay with waiting := l } }

variable {R : State → State → Prop}

/-! ### Counters, faults and marks -/

/-- A counter's increment is a change of the domain's counters and at most one event (R139, R142). -/
theorem State.count_closed (h : Closed R) (s : State) (d : DomId) (c : Counter) (n : Nat) : R s (s.count d c n) := by
  unfold State.count
  have move : ∀ cs, DomainMove (s.dom d) { s.dom d with counters := cs } := fun cs => ⟨rfl, rfl, .inl ⟨rfl, .inl rfl⟩⟩
  dsimp only
  split
  · exact h.trans (h.domain s d _ (move _)) (h.raise _ _)
  · exact h.domain s d _ (move _)

theorem State.fault_closed (h : Closed R) (s : State) (kind : FaultKind) (d : Option DomId) (i : Option InitId)
    (a : Option Addr) (p : Option Nat) (c : Option Code) : R s (s.fault kind d i a p c) := h.enqueueFault _ _

theorem State.replaceEntry_closed (h : Closed R) (s : State) (e : Entry) : R s (s.replaceEntry e) := by
  refine h.rewrite s _ fun x => ?_
  split
  · next hx => exact hx.symm
  · rfl

theorem State.forwardEntry_closed (h : Closed R) (s : State) (e : Entry) : R s (s.forwardEntry e) :=
  h.trans (h.dropEntry s _) (h.trans (h.setMark _ _ _) (h.forward _ _ _))

theorem State.refuseEntry_closed (h : Closed R) (s : State) (e : Entry) : R s (s.refuseEntry e) :=
  h.trans (h.dropEntry s _) (h.setMark _ _ _)

theorem State.updDom_closed (h : Closed R) (s : State) (d : DomId) (f : Domain → Domain)
    (hf : DomainMove (s.dom d) (f (s.dom d))) : R s (s.updDom d f) := h.domain s d _ hf

/-- A change of a domain's state to one other than OFF, or of its other run-time fields, is a domain move. -/
theorem DomainMove.live {x y : Domain} (hc : y.config = x.config) (hs : y.slotsInUse = x.slotsInUse)
    (ho : y.occupancy = x.occupancy) (hst : y.state = x.state ∨ y.state ≠ .off) : DomainMove x y :=
  ⟨hc, hs, .inl ⟨ho, hst⟩⟩

/-! ### Hand-overs -/

theorem State.handCaptureRead_closed (h : Closed R) (s : State) (k : SlotId) : R s (s.handCaptureRead k) := by
  unfold State.handCaptureRead; split
  · exact h.trans (h.handed s k true (s.slot k).writeHanded) (h.handOver _ _)
  · exact h.refl s

theorem State.handRecordWrite_closed (h : Closed R) (s : State) (k : SlotId) : R s (s.handRecordWrite k) := by
  unfold State.handRecordWrite; split
  · exact h.trans (h.handed s k (s.slot k).readIssued true) (h.handOver _ _)
  · exact h.refl s

theorem State.handAnchorWrite_closed (h : Closed R) (s : State) (d : DomId) : R s (s.handAnchorWrite d) := by
  unfold State.handAnchorWrite; split
  · split
    · exact h.trans (s.updDom_closed h d _ (.live rfl rfl rfl (.inl rfl))) (h.handOver _ _)
    · exact h.refl s
  · exact h.refl s

theorem State.handAnchorRead_closed (h : Closed R) (s : State) : R s s.handAnchorRead := by
  unfold State.handAnchorRead; split
  · split
    · exact h.trans (h.walk s _) (h.handOver _ _)
    · exact h.refl s
  · exact h.refl s

theorem State.handReplayWrite_closed (h : Closed R) (s : State) : R s s.handReplayWrite := by
  unfold State.handReplayWrite; split
  · split
    · split
      · exact h.trans (h.walk s _) (h.handOver _ _)
      · exact h.refl s
    · exact h.refl s
  · exact h.refl s

theorem State.issueRecordRead_closed (h : Closed R) (s : State) : R s s.issueRecordRead := by
  unfold State.issueRecordRead; split
  · split
    · split
      · exact h.trans (h.walk s _) (h.handOver _ _)
      · exact h.refl s
    · exact h.refl s
  · exact h.refl s

/-- A fold of moves is a chain of moves. -/
theorem Closed.foldl {α : Type} (h : Closed R) (f : State → α → State) (hf : ∀ s a, R s (f s a)) (l : List α) :
    ∀ s, R s (l.foldl f s) := by
  induction l with
  | nil => exact h.refl
  | cons a l ih => exact fun s => h.trans (hf s a) (ih _)

theorem State.releaseHeld_closed (h : Closed R) (s : State) : R s s.releaseHeld := by
  have slots : ∀ t, R t (allSlots.foldl (fun t k => (t.handCaptureRead k).handRecordWrite k) t) :=
    h.foldl _ (fun t k => h.trans (t.handCaptureRead_closed h k) (State.handRecordWrite_closed h _ k)) _
  have domains : ∀ t, R t (allDoms.foldl (fun t d => t.handAnchorWrite d) t) :=
    h.foldl _ (fun t d => t.handAnchorWrite_closed h d) _
  exact h.trans (slots s) (h.trans (domains _) (h.trans (State.handAnchorRead_closed h _)
    (h.trans (State.handReplayWrite_closed h _) (State.issueRecordRead_closed h _))))

/-! ### Decisions and the work list -/

/-- The lines inserted one by one ascend. -/
theorem insertLine_pairwise (x : Line) (l : List Line) (hl : l.Pairwise (· < ·)) :
    (insertLine x l).Pairwise (· < ·) ∧ ∀ y ∈ insertLine x l, y = x ∨ y ∈ l := by
  induction l with
  | nil => simp [insertLine]
  | cons a l ih =>
    rw [List.pairwise_cons] at hl
    obtain ⟨ih1, ih2⟩ := ih hl.2
    unfold insertLine
    split
    · next hx =>
      refine ⟨?_, fun y hy => by simpa using hy⟩
      rw [List.pairwise_cons]
      refine ⟨fun y hy => ?_, List.pairwise_cons.2 hl⟩
      rcases List.mem_cons.1 hy with rfl | hy
      · exact hx
      · exact BitVec.lt_trans hx (hl.1 y hy)
    · split
      · exact ⟨List.pairwise_cons.2 hl, fun y hy => .inr hy⟩
      · next h1 h2 =>
        have hax : a < x := by
          rw [BitVec.lt_def] at h1 ⊢
          have : x.toNat ≠ a.toNat := fun hc => h2 (BitVec.eq_of_toNat_eq hc)
          omega
        refine ⟨List.pairwise_cons.2 ⟨fun y hy => ?_, ih1⟩, fun y hy => ?_⟩
        · rcases ih2 y hy with rfl | hy
          · exact hax
          · exact hl.1 y hy
        · rcases List.mem_cons.1 hy with rfl | hy
          · exact .inr (by simp)
          · rcases ih2 y hy with rfl | hy
            · exact .inl rfl
            · exact .inr (List.mem_cons_of_mem _ hy)

/-- The lines that a request touches ascend, each once (R2). -/
theorem touchedLines_pairwise (q : Request) : (touchedLines q).Pairwise (· < ·) := by
  unfold touchedLines
  induction touchedBytes q with
  | nil => exact List.Pairwise.nil
  | cons b bs ih => exact (insertLine_pairwise _ _ ih).1

/-- What a decision to allocate has found (R45, R46). -/
theorem State.decision_allocate (s : State) (e : Entry) (lines : List Line) (h : s.decision e = .allocate lines) :
    ∃ d, e.domain = some d ∧ Allocatable s d lines := by
  have path : ∀ d c, s.writePath d e c = .allocate lines → Allocatable s d lines := by
    intro d c hp
    unfold State.writePath at hp
    dsimp only at hp
    split at hp
    · cases hp
    · split at hp
      · cases hp
      · next hu =>
        split at hp
        · cases hp
        · unfold State.allocationDecision at hp
          dsimp only at hp
          split at hp
          · split at hp <;> cases hp
          · split at hp
            · cases hp
            · next hspace hfree =>
              injection hp with hp
              subst hp
              refine ⟨(touchedLines_pairwise _).filter _, ?_, by omega, by omega⟩
              intro l hl
              rw [Bool.eq_false_iff]
              exact fun hc => hu (List.any_eq_true.2 ⟨l, hl, hc⟩)
  unfold State.decision at h
  split at h
  · cases h
  · split at h
    · cases h
    · next d hd =>
      refine ⟨d, hd, ?_⟩
      split at h
      · unfold readTreatment at h
        split at h <;> (try split at h) <;> cases h
      · unfold State.writeTreatment at h
        dsimp only at h
        split at h
        all_goals first | exact path d _ h | (try split at h) <;> (try split at h) <;> first | exact path d _ h | cases h

theorem State.journalFull_closed (h : Closed R) (s : State) (d : DomId) (e : Entry) : R s (s.journalFull d e) :=
  h.enqueueFault _ _

theorem State.breakDomain_closed (h : Closed R) (s : State) (d : DomId) : R s (s.breakDomain d) :=
  h.trans (s.updDom_closed h d _ (.live rfl rfl rfl (.inr (by simp)))) (h.trans (h.raise _ _) (h.requestSweep _ _))

theorem State.forwardCounting_closed (h : Closed R) (s : State) (e : Entry) (n : Nat) : R s (s.forwardCounting e n) := by
  unfold State.forwardCounting
  dsimp only
  split
  · split
    · exact s.forwardEntry_closed h e
    · exact h.trans (s.forwardEntry_closed h e) (State.count_closed h _ _ _ _)
  · exact s.forwardEntry_closed h e

/-- A decision carried out is a chain of moves, whatever keeps a held request (R88, R90, R93, R94). -/
theorem State.carryOut_closed (h : Closed R) (keep : State → Entry → State) (s : State) (e : Entry)
    (hk : ∀ t f, f.arrival = e.arrival → t.hold = s.hold → t.host = s.host → R t (keep t f))
    (ha : ∀ d lines region, Allocatable s d lines →
      (s.allocateSlots d region lines).hold = s.hold ∧ (s.allocateSlots d region lines).host = s.host) :
    R s (s.carryOut keep e (s.decision e)) := by
  generalize hd : s.decision e = dec
  cases dec with
  | forward n => exact s.forwardCounting_closed h e n
  | refuseOff =>
    unfold State.carryOut; dsimp only; split
    · exact h.trans (s.refuseEntry_closed h e) (State.count_closed h _ _ _ _)
    · exact s.refuseEntry_closed h e
  | refuseFull =>
    unfold State.carryOut; dsimp only; split
    · exact h.trans (s.refuseEntry_closed h e)
        (h.trans (State.count_closed h _ _ _ _) (State.journalFull_closed h _ _ _))
    · exact s.refuseEntry_closed h e
  | breakForward =>
    unfold State.carryOut; dsimp only; split
    · exact h.trans (State.journalFull_closed h _ _ _)
        (h.trans (State.breakDomain_closed h _ _) (State.forwardEntry_closed h _ _))
    · exact s.forwardEntry_closed h e
  | hold w ls c => exact hk s _ rfl rfl rfl
  | allocate lines =>
    obtain ⟨d, hdom, hal⟩ := s.decision_allocate e lines hd
    unfold State.carryOut; dsimp only; rw [hdom]
    exact h.trans (h.allocate s d _ lines hal) (hk _ _ rfl (ha d lines _ hal).1 (ha d lines _ hal).2)

/-- An allocation leaves the hold queue and the host-side port alone (R48). -/
theorem State.allocateSlots_hold_host (s : State) (d : DomId) (region : Fin 16) (lines : List Line) :
    (s.allocateSlots d region lines).hold = s.hold ∧ (s.allocateSlots d region lines).host = s.host := by
  have hand : ∀ (t : State) k, (t.handCaptureRead k).hold = t.hold ∧ (t.handCaptureRead k).host = t.host := by
    intro t k; unfold State.handCaptureRead; split <;> simp
  have fill : ∀ (ks : List SlotId) (t : State) (ls : List Line) (p : Nat),
      (t.fillSlots d region ks ls p).hold = t.hold ∧ (t.fillSlots d region ks ls p).host = t.host := by
    intro ks
    induction ks with
    | nil => intro t ls p; simp [State.fillSlots]
    | cons k ks ih =>
      intro t ls p
      cases ls with
      | nil => simp [State.fillSlots]
      | cons l ls =>
        unfold State.fillSlots
        obtain ⟨h1, h2⟩ := ih ((t.setSlot k (t.allocatedSlot d region (t.slot k) l p)).handCaptureRead k) ls (p + 1)
        obtain ⟨h3, h4⟩ := hand (t.setSlot k (t.allocatedSlot d region (t.slot k) l p)) k
        exact ⟨by rw [h1, h3]; simp, by rw [h2, h4]; simp⟩
  have count : ∀ (t : State) c n, (t.count d c n).hold = t.hold ∧ (t.count d c n).host = t.host := by
    intro t c n; unfold State.count; dsimp only; split <;> simp
  have reserve : (s.reserve d lines.length).hold = s.hold ∧ (s.reserve d lines.length).host = s.host := by
    unfold State.reserve; dsimp only; split
    · exact ⟨by rw [(count _ _ _).1]; simp, by rw [(count _ _ _).2]; simp⟩
    · simp
  unfold State.allocateSlots
  obtain ⟨h1, h2⟩ := fill s.freeSlots (s.reserve d lines.length) lines (s.dom d).occupancy
  exact ⟨h1.trans reserve.1, h2.trans reserve.2⟩

/-- A re-evaluation is a chain of moves (R90). -/
theorem State.reevaluated_closed (h : Closed R) (s : State) (e : Entry) :
    R s (s.carryOut State.replaceEntry e (s.decision e)) :=
  s.carryOut_closed h State.replaceEntry e (fun t f _ _ _ => t.replaceEntry_closed h f)
    fun d lines region _ => s.allocateSlots_hold_host d region lines

/-- A work list is a chain of moves (R91). -/
theorem State.workList_closed (h : Closed R) (fuel : Nat) :
    ∀ (todo seen : List Nat) (s : State), R s (State.workList fuel todo seen s) := by
  induction fuel with
  | zero => exact fun _ _ s => h.refl s
  | succ n ih =>
    intro todo seen s
    unfold State.workList
    split
    · exact h.refl s
    · exact h.trans (s.reevaluated_closed h _) (ih _ _ _)

theorem State.reevaluate_closed (h : Closed R) (s : State) (set : List Nat) : R s (s.reevaluate set) :=
  State.workList_closed h _ _ _ s

/-! ### Ends of operations -/

theorem State.endOperation_closed (h : Closed R) (s : State) (d : DomId) (r : OpResult) : R s (s.endOperation d r) :=
  h.trans (s.updDom_closed h d _ (.live rfl rfl rfl (.inl rfl))) (h.raise _ _)

theorem State.releaseWaiters_closed (h : Closed R) (s : State) (d : DomId) : R s (s.releaseWaiters d) :=
  s.reevaluate_closed h _

theorem State.offEntry_closed (h : Closed R) (s : State) (d : DomId) (e : Entry) : R s (State.offEntry d s e) := by
  unfold State.offEntry; split
  · exact h.trans (s.refuseEntry_closed h e) (State.count_closed h _ _ _ _)
  · split
    · exact s.replaceEntry_closed h _
    · exact s.forwardEntry_closed h e

theorem State.enterOff_closed (h : Closed R) (s : State) (d : DomId) : R s (s.enterOff d) := by
  refine h.trans (s.updDom_closed h d (fun x =>
    { x with state := .off, occupancy := 0, pressure := false, brokenMark := false, anchor := .idle })
    ⟨rfl, rfl, .inr rfl⟩) (h.trans ?_ (State.reevaluate_closed h _ _))
  exact h.foldl _ (fun t e => t.offEntry_closed h d e) _ _

theorem State.failToOff_closed (h : Closed R) (s : State) (d : DomId) (r : OpResult) : R s (s.failToOff d r) :=
  h.trans (s.enterOff_closed h d) (State.endOperation_closed h _ _ _)

theorem State.failToBroken_closed (h : Closed R) (s : State) (d : DomId) : R s (s.failToBroken d) :=
  h.trans (s.updDom_closed h d _ (.live rfl rfl rfl (.inl rfl))) (h.trans (State.breakDomain_closed h _ _)
    (h.trans (State.endOperation_closed h _ _ _) (State.releaseWaiters_closed h _ _)))

theorem State.prepareAnchor_closed (h : Closed R) (s : State) (d : DomId) (e : Epoch) (r : OpResult) :
    R s (s.prepareAnchor d e r) :=
  h.trans (s.updDom_closed h d _ (.live rfl rfl rfl (.inl rfl))) (State.handAnchorWrite_closed h _ _)

theorem State.commitSucceeds_closed (h : Closed R) (s : State) (d : DomId) : R s (s.commitSucceeds d) :=
  h.trans (s.updDom_closed h d _ ⟨rfl, rfl, .inr rfl⟩) (h.trans (h.requestSweep _ _) (h.trans
    (State.count_closed h _ _ _ _) (h.trans (State.endOperation_closed h _ _ _) (State.releaseWaiters_closed h _ _))))

theorem State.rollbackSucceeds_closed (h : Closed R) (s : State) (d : DomId) : R s (s.rollbackSucceeds d) :=
  h.trans (s.updDom_closed h d _ ⟨rfl, rfl, .inr rfl⟩) (h.trans (h.requestSweep _ _) (h.trans
    (State.count_closed h _ _ _ _) (h.trans (State.endOperation_closed h _ _ _) (State.releaseWaiters_closed h _ _))))

theorem State.recoverSucceeds_closed (h : Closed R) (s : State) (d : DomId) : R s (s.recoverSucceeds d) :=
  h.trans (s.updDom_closed h d _ ⟨rfl, rfl, .inr rfl⟩) (h.trans (h.requestSweep _ _) (h.trans
    (State.endOperation_closed h _ _ _) (State.releaseWaiters_closed h _ _)))

theorem State.formatSlot1Succeeds_closed (h : Closed R) (s : State) (d : DomId) : R s (s.formatSlot1Succeeds d) := by
  unfold State.formatSlot1Succeeds; dsimp only
  exact h.trans (s.updDom_closed h d _ ⟨rfl, rfl, .inr rfl⟩) (h.trans (h.requestSweep _ d) (h.handOver _ _))

theorem State.formatSucceeds_closed (h : Closed R) (s : State) (d : DomId) : R s (s.formatSucceeds d) :=
  h.trans (s.updDom_closed h d _ (.live rfl rfl rfl (.inr (by simp))))
    (h.trans (State.endOperation_closed h _ _ _) (State.releaseWaiters_closed h _ _))

theorem State.anchorFails_closed (h : Closed R) (s : State) (d : DomId) (use : AnchorUse) (a : Addr) :
    R s (s.anchorFails d use a) := by
  have faulted : R s (s.anchorFault d a) := h.enqueueFault _ _
  have off := h.trans faulted (State.failToOff_closed h (s.anchorFault d a) d .failed)
  have broken := h.trans faulted (State.failToBroken_closed h (s.anchorFault d a) d)
  cases use
  · exact off
  · exact off
  · exact broken
  · exact broken
  · exact off

/-! ### Walks -/

theorem State.startWalk_closed (h : Closed R) (s : State) (d : DomId) : R s (s.startWalk d) := by
  unfold State.startWalk; split
  · exact h.trans (h.walk s _) (State.handAnchorRead_closed h _)
  · exact h.trans (h.walk s _) (State.issueRecordRead_closed h _)

theorem State.claimEngine_closed (h : Closed R) (s : State) (d : DomId) : R s (s.claimEngine d) := by
  unfold State.claimEngine; split
  · exact s.startWalk_closed h d
  · exact h.waiting s _

theorem State.nextWalk_closed (h : Closed R) (s : State) : R s s.nextWalk := by
  unfold State.nextWalk; split
  · exact h.refl s
  · exact h.trans (h.waiting s _) (State.startWalk_closed h _ _)

theorem State.recoverWalkEnds_closed (h : Closed R) (s : State) (d : DomId) (e : Epoch) (r : OpResult) :
    R s (s.recoverWalkEnds d e r) := by
  have prepared : R s (if e = lastEpoch then s.failToOff d .failed else s.prepareAnchor d (e + 1#32) .ok) := by
    split
    · exact s.failToOff_closed h d _
    · exact s.prepareAnchor_closed h d _ _
  cases r
  · exact prepared
  · exact prepared
  · exact s.failToOff_closed h d _
  · exact s.failToOff_closed h d _

theorem State.rollbackWalkEnds_closed (h : Closed R) (s : State) (d : DomId) (r : OpResult) :
    R s (s.rollbackWalkEnds d r) := by
  cases r
  · exact s.prepareAnchor_closed h d _ _
  · exact s.prepareAnchor_closed h d _ _
  · exact s.failToBroken_closed h d
  · exact s.failToBroken_closed h d

theorem State.endWalk_closed (h : Closed R) (s : State) (w : Walk) (r : OpResult) : R s (s.endWalk w r) := by
  unfold State.endWalk; dsimp only; split
  · exact h.trans (h.walk s _) (h.trans (State.rollbackWalkEnds_closed h _ _ _) (State.nextWalk_closed h _))
  · exact h.trans (h.walk s _) (h.trans (State.recoverWalkEnds_closed h _ _ _ _) (State.nextWalk_closed h _))

theorem State.advanceWalk_closed (h : Closed R) (s : State) : R s s.advanceWalk := by
  have moved : R s s.handReplayWrite.issueRecordRead :=
    h.trans (s.handReplayWrite_closed h) (State.issueRecordRead_closed h _)
  unfold State.advanceWalk; dsimp only; split
  · split
    · exact h.trans moved (State.endWalk_closed h _ _ _)
    · exact moved
  · exact moved

theorem State.passOver_closed (h : Closed R) (s : State) (w : Walk) (p : Nat) : R s (s.passOver w p) := by
  unfold State.passOver; split
  · exact h.trans (h.walk s _) (h.trans (State.count_closed h _ _ _ _) (h.enqueueFault _ _))
  · exact h.refl s

theorem State.judgeRecord_closed (h : Closed R) (s : State) (w : Walk) (p : Nat) (record : List Byte) :
    R s (s.judgeRecord w p record) := by
  unfold State.judgeRecord; split
  · exact h.walk s _
  · exact s.passOver_closed h w p

theorem State.recordReadFails_closed (h : Closed R) (s : State) (w : Walk) (p : Nat) : R s (s.recordReadFails w p) :=
  h.trans (h.walk s _) (h.enqueueFault _ _)

theorem State.replayWriteFails_closed (h : Closed R) (s : State) (w : Walk) (p : Nat) (a : Addr) :
    R s (s.replayWriteFails w p a) := h.trans (h.walk s _) (h.enqueueFault _ _)

theorem State.anchorReadsEnd_closed (h : Closed R) (s : State) (w : Walk) (x y : Option (List Byte)) :
    R s (s.anchorReadsEnd w x y) := by
  have fails : R s (State.endWalk (if y.isNone then (if x.isNone then s.anchorReadFault w.domain false else s).anchorReadFault
      w.domain true else if x.isNone then s.anchorReadFault w.domain false else s) w .failed) := by
    refine h.trans ?_ (State.endWalk_closed h _ _ _)
    have first : R s (if x.isNone then s.anchorReadFault w.domain false else s) := by
      split
      · exact h.enqueueFault _ _
      · exact h.refl s
    split
    · exact h.trans first (h.enqueueFault _ _)
    · exact first
  cases x <;> cases y
  · exact fails
  · exact fails
  · exact fails
  · unfold State.anchorReadsEnd; dsimp only; split
    · exact h.trans (h.walk s _) (State.advanceWalk_closed h _)
    · exact s.endWalk_closed h _ _

theorem State.anchorReadEnds_closed (h : Closed R) (s : State) (w : Walk) (x : Option (List Byte)) :
    R s (s.anchorReadEnds w x) := by
  unfold State.anchorReadEnds; split
  · exact s.anchorReadsEnd_closed h _ _ _
  · exact h.trans (h.walk s _) (h.handOver _ _)
  · exact h.trans (h.walk s _) (h.handOver _ _)

/-! ### Drains and captures -/

theorem State.startDrain_closed (h : Closed R) (s : State) (d : DomId) (p : Pending) : R s (s.startDrain d p) := by
  refine h.trans (s.updDom_closed h d (fun x => { x with state := .draining, pending := p })
    (.live rfl rfl rfl (.inr (by simp)))) (h.rewrite _ _ fun x => ?_)
  split
  · split <;> rfl
  · rfl

theorem State.enterRolling_closed (h : Closed R) (s : State) (d : DomId) : R s (s.enterRolling d) := by
  unfold State.enterRolling; dsimp only
  refine h.trans (s.updDom_closed h d (fun x => { x with state := .rolling })
    (.live rfl rfl rfl (.inr (by simp)))) ?_
  split
  · exact State.rollbackWalkEnds_closed h _ _ _
  · exact State.claimEngine_closed h _ _

theorem State.markedRollbackEnds_closed (h : Closed R) (s : State) (d : DomId) : R s (s.markedRollbackEnds d) :=
  h.trans (s.updDom_closed h d _ (.live rfl rfl rfl (.inr (by simp))))
    (h.trans (State.endOperation_closed h _ _ _) (State.releaseWaiters_closed h _ _))

theorem State.endDrain_closed (h : Closed R) (s : State) (d : DomId) : R s (s.endDrain d) := by
  unfold State.endDrain; dsimp only
  refine h.trans (s.updDom_closed h d (fun x => { x with pending := .none }) (.live rfl rfl rfl (.inl rfl)))
    (h.trans (h.rewrite _ (fun e => if e.domain = some d then { e with carried := false } else e) fun x => ?_) ?_)
  · split <;> rfl
  · split
    · exact h.trans (State.updDom_closed h _ d _ (.live rfl rfl rfl (.inr (by simp)))) (State.prepareAnchor_closed h _ _ _ _)
    · split
      · exact State.markedRollbackEnds_closed h _ _
      · exact State.enterRolling_closed h _ _
    · exact h.trans (State.enterOff_closed h _ _) (h.trans (h.requestSweep _ _) (State.endOperation_closed h _ _ _))
    · exact h.refl _

theorem State.endDrainIfDone_closed (h : Closed R) (s : State) (d : DomId) : R s (s.endDrainIfDone d) := by
  unfold State.endDrainIfDone; split
  · exact s.endDrain_closed h d
  · exact h.refl s

theorem State.captureBreaks_closed (h : Closed R) (s : State) (d : DomId) : R s (s.captureBreaks d) := by
  unfold State.captureBreaks; split
  · exact s.breakDomain_closed h d
  · split
    · exact h.refl s
    · exact h.trans (s.updDom_closed h d _ (.live rfl rfl rfl (.inl rfl))) (h.trans (h.raise _ _) (h.requestSweep _ _))
  · exact h.refl s

/-- A BROKEN cause leaves the capture slots alone. -/
theorem State.captureBreaks_slot (s : State) (d : DomId) (k : SlotId) : (s.captureBreaks d).slot k = s.slot k := by
  have sweep : ∀ t : State, (t.requestSweep d).slot k = t.slot k := by
    intro t; unfold State.requestSweep; split
    · rfl
    · split
      · rfl
      · split <;> rfl
  unfold State.captureBreaks State.breakDomain; split
  · rw [sweep]; simp
  · split
    · rfl
    · rw [sweep]; simp
  · rfl

theorem State.finishCapture_closed (h : Closed R) (s : State) (k : SlotId) (more : List Nat)
    (hk : (s.slot k).state ≠ .free) : R s (s.finishCapture k more) :=
  h.trans (h.freeSlot s k hk) (h.trans (State.reevaluate_closed h _ _) (State.endDrainIfDone_closed h _ _))

theorem State.captureFails_closed (h : Closed R) (s : State) (k : SlotId) (kind : FaultKind)
    (hk : (s.slot k).state ≠ .free) : R s (s.captureFails k kind) := by
  refine h.trans (h.enqueueFault _ _) (h.trans (State.captureBreaks_closed h _ _) (State.finishCapture_closed h _ _ _ ?_))
  rw [State.captureBreaks_slot]
  have slots : ∀ r, (s.enqueueFault r).slot k = s.slot k := by
    intro r; unfold State.enqueueFault; split <;> rfl
  rw [slots]; exact hk

theorem State.recordDurable_closed (h : Closed R) (s : State) (k : SlotId) (hk : (s.slot k).state ≠ .free) :
    R s (s.recordDurable k) := by
  have counted : ∀ (t : State) d c n, (t.count d c n).slot k = t.slot k := by
    intro t d c n; unfold State.count; dsimp only; split <;> simp
  have inserted : ∀ (t : State) d l p, (t.filterInsert d l p).slot k = t.slot k := by
    intro t d l p; unfold State.filterInsert; dsimp only; split
    · rfl
    · split
      · rfl
      · rw [counted]; simp
  unfold State.recordDurable; dsimp only
  refine h.trans (s.count_closed h (s.slot k).domain .captures 1) ?_
  split
  · refine h.trans (h.insert _ _ _ _) (State.finishCapture_closed h _ _ _ ?_)
    rw [inserted, counted]; exact hk
  · refine State.finishCapture_closed h _ _ _ ?_
    rw [counted]; exact hk

theorem State.oldLineRead_closed (h : Closed R) (s : State) (k : SlotId) (line : List Byte)
    (hk : (s.slot k).state = .readOld) : R s (s.oldLineRead k line) :=
  h.trans (h.filled s k _ _ hk) (State.handRecordWrite_closed h _ _)

/-! ### Commands -/

theorem State.oldLineAnswered_closed (h : Closed R) (s : State) (k : SlotId) (id : DownId) (beats : List Beat) :
    R s (s.oldLineAnswered k id beats) := by
  unfold State.oldLineAnswered; split
  · next hk =>
    split
    · exact h.trans (h.freeId s _ _) (State.oldLineRead_closed h _ _ _ (by simpa using hk))
    · exact h.trans (h.freeId s _ _) (State.captureFails_closed h _ _ _ (by simp [hk]))
  · exact h.refl s

theorem State.recordAnswered_closed (h : Closed R) (s : State) (k : SlotId) (id : DownId) (code : Code) :
    R s (s.recordAnswered k id code) := by
  unfold State.recordAnswered; split
  · next hk =>
    split
    · exact h.trans (h.freeId s _ _) (State.recordDurable_closed h _ _ (by simp [hk]))
    · exact h.trans (h.freeId s _ _) (State.captureFails_closed h _ _ _ (by simp [hk]))
  · exact h.refl s

theorem State.anchorAnswered_closed (h : Closed R) (s : State) (id : DownId) (code : Code) (use : AnchorUse)
    (succeed : State → DomId → State) (hs : ∀ t d, R t (succeed t d)) : R s (s.anchorAnswered id code use succeed) := by
  unfold State.anchorAnswered; split
  · split
    · split
      · exact h.trans (h.freeId s _ _) (hs _ _)
      · exact h.trans (h.freeId s _ _) (State.anchorFails_closed h _ _ _ _)
    · exact h.refl s
  · exact h.refl s

theorem State.recordReadAnswered_closed (h : Closed R) (s : State) (w : Walk) (p : Nat) (beats : List Beat) :
    R s (s.recordReadAnswered w p beats) := by
  unfold State.recordReadAnswered; split
  · exact h.trans (h.walk s _) (h.trans (State.judgeRecord_closed h _ _ _ _) (State.advanceWalk_closed h _))
  · exact h.trans (s.recordReadFails_closed h _ _) (State.advanceWalk_closed h _)

theorem State.replayWriteAnswered_closed (h : Closed R) (s : State) (w : Walk) (a : OwnAccess) (code : Code) :
    R s (s.replayWriteAnswered w a code) := by
  unfold State.replayWriteAnswered; split
  · exact h.trans (h.walk s _) (h.trans (State.count_closed h _ _ _ _) (State.advanceWalk_closed h _))
  · exact h.trans (s.replayWriteFails_closed h _ _ _) (State.advanceWalk_closed h _)

theorem State.timeOutEntry_closed (h : Closed R) (s : State) (e : Entry) : R s (s.timeOutEntry e) := by
  unfold State.timeOutEntry; dsimp only; split
  · exact h.trans (s.refuseEntry_closed h e) (h.trans (State.count_closed h _ _ _ _)
      (h.trans (h.enqueueFault _ _) (State.reevaluate_closed h _ _)))
  · exact h.trans (s.refuseEntry_closed h e) (h.trans (h.enqueueFault _ _) (State.reevaluate_closed h _ _))

theorem State.timeOutCapture_closed (h : Closed R) (s : State) (k : SlotId) (st : SlotState) (dir : Dir) (owner : Owner)
    (kind : FaultKind) (hst : st ≠ .free) : R s (s.timeOutCapture k st dir owner kind) := by
  unfold State.timeOutCapture; split
  · next hk =>
    rw [Bool.and_eq_true, decide_eq_true_eq] at hk
    refine h.trans (h.timeOutOwn s _ _) (State.captureFails_closed h _ _ _ ?_)
    rw [State.timeOutOwn_slot, hk.1]; exact hst
  · exact h.refl s

theorem State.timeOutAnchor_closed (h : Closed R) (s : State) (d : DomId) : R s (s.timeOutAnchor d) := by
  unfold State.timeOutAnchor; dsimp only; split
  · split
    · exact h.trans (h.timeOutOwn s _ _) (State.anchorFails_closed h _ _ _ _)
    · exact h.refl s
  · exact h.refl s

theorem State.timeOutWalkRead_closed (h : Closed R) (s : State) : R s s.timeOutWalkRead := by
  unfold State.timeOutWalkRead; dsimp only; split
  · split
    · exact h.trans (h.timeOutOwn s _ _)
        (h.trans (State.recordReadFails_closed h _ _ _) (State.advanceWalk_closed h _))
    · exact h.trans (h.timeOutOwn s _ _) (State.anchorReadEnds_closed h _ _ _)
  · exact h.refl s

theorem State.timeOutReplayWrite_closed (h : Closed R) (s : State) : R s s.timeOutReplayWrite := by
  unfold State.timeOutReplayWrite; dsimp only; split
  · exact h.trans (h.timeOutOwn s _ _) (h.trans (State.replayWriteFails_closed h _ _ _ _) (State.advanceWalk_closed h _))
  · exact h.refl s

theorem State.timeOutBuffer_closed (h : Closed R) (s : State) : R s s.timeOutBuffer := by
  unfold State.timeOutBuffer; split
  · split
    · split
      · exact h.trans (s.replayWriteFails_closed h _ _ _) (State.advanceWalk_closed h _)
      · exact h.refl s
    · exact h.refl s
  · exact h.refl s

theorem State.leaveOff_closed (h : Closed R) (s : State) (d : DomId) (st : DomState) (hst : st ≠ .off) :
    R s (s.leaveOff d st) := by
  unfold State.leaveOff
  refine h.trans (s.updDom_closed h d (fun x => { x with state := st }) (.live rfl rfl rfl (.inr hst)))
    (h.trans (h.foldl _ (fun t e => ?_) _ _) (State.reevaluate_closed h _ _))
  exact h.trans (t.refuseEntry_closed h e) (h.trans (h.countGlobal _ _) (h.enqueueFault _ _))

theorem State.startFormat_closed (h : Closed R) (s : State) (d : DomId) : R s (s.startFormat d) :=
  h.trans (s.leaveOff_closed h d _ (by simp)) (State.prepareAnchor_closed h _ _ _ _)

theorem State.startRecover_closed (h : Closed R) (s : State) (d : DomId) : R s (s.startRecover d) :=
  h.trans (s.leaveOff_closed h d _ (by simp)) (State.claimEngine_closed h _ _)

/-- The start of a domain operation, up to its reply, is a chain of moves (R25, R28). -/
theorem State.drain_closed (h : Closed R) (s : State) (d : DomId) (p : Pending) :
    R s ((s.startDrain d p).endDrainIfDone d) :=
  h.trans (s.startDrain_closed h d p) (State.endDrainIfDone_closed h _ _)

/-- The commands that answer, time out or hand over the part's own accesses, and the hold timeout: each is a chain of moves.
The commands not among them are single changes of the ports, the frame engine, the settings or the pins. -/
def Instr.isInner : Instr → Bool
  | .lateResponse _ _ _ | .captureReadIssue _ | .oldLineReadResponse _ _ | .recordWriteIssue _ | .recordWriteResponse _ _
  | .formatSlot1Issue _ | .formatSlot1Response _ _ | .formatInvalidateResponse _ _ | .anchorReadIssue
  | .anchorReadResponse _ _ | .anchorWriteIssue _ | .commitAnchorResponse _ _ | .recordReadResponse _ _
  | .replayWriteIssue | .replayWriteResponse _ _ | .rollbackAnchorResponse _ _ | .recoverAnchorResponse _ _
  | .holdTimeout | .memTimeout _ => true
  | _ => false

/-- A command of the part in operation is a move if its effect is. -/
theorem whileRunning_closed (h : Closed R) (f : State → State) (s t : State) (hf : R s (f s))
    (he : whileRunning f s = .next t) : R s t := by
  unfold whileRunning at he
  injection he with he
  subst he
  split
  · exact h.refl s
  · exact hf

/-- Each inner command is a chain of moves. -/
theorem exec_inner_closed (h : Closed R) (c : Instr) (s t : State) (hc : Instr.isInner c = true)
    (he : exec c s = .next t) : R s t := by
  cases c <;> simp only [Instr.isInner, Bool.false_eq_true] at hc <;>
    simp only [exec, execLateResponse, execCaptureReadIssue, execOldLineReadResponse, execRecordWriteIssue,
      execRecordWriteResponse, execFormatSlot1Issue, execFormatSlot1Response, execFormatInvalidateResponse,
      execAnchorReadIssue, execAnchorReadResponse, execAnchorWriteIssue, execCommitAnchorResponse,
      execRecordReadResponse, execReplayWriteIssue, execReplayWriteResponse, execRollbackAnchorResponse,
      execRecoverAnchorResponse, execHoldTimeout, execMemTimeout] at he <;>
    refine whileRunning_closed h _ s t ?_ he
  case lateResponse dir id codes =>
    split
    · exact h.trans (h.freeId s _ _) (h.trans (h.countGlobal _ _) (h.trans (h.enqueueFault _ _)
        (State.releaseHeld_closed h _)))
    · exact h.refl s
  case captureReadIssue k => exact s.handCaptureRead_closed h k
  case oldLineReadResponse id beats =>
    split
    · split
      · exact s.oldLineAnswered_closed h _ _ _
      · exact h.refl s
    · exact h.refl s
  case recordWriteIssue k => exact s.handRecordWrite_closed h k
  case recordWriteResponse id code =>
    split
    · split
      · exact s.recordAnswered_closed h _ _ _
      · exact h.refl s
    · exact h.refl s
  case formatSlot1Issue d =>
    split
    · exact s.handAnchorWrite_closed h d
    · exact h.refl s
  case formatSlot1Response id code => exact s.anchorAnswered_closed h _ _ _ _ (State.formatSlot1Succeeds_closed h)
  case formatInvalidateResponse id code => exact s.anchorAnswered_closed h _ _ _ _ (State.formatSucceeds_closed h)
  case anchorReadIssue => exact s.handAnchorRead_closed h
  case anchorReadResponse id beats =>
    split
    · split
      · exact h.trans (h.freeId s _ _) (State.anchorReadEnds_closed h _ _ _)
      · exact h.refl s
    · exact h.refl s
  case anchorWriteIssue d =>
    split
    · exact h.refl s
    · exact s.handAnchorWrite_closed h d
  case commitAnchorResponse id code => exact s.anchorAnswered_closed h _ _ _ _ (State.commitSucceeds_closed h)
  case recordReadResponse id beats =>
    split
    · split
      · exact h.trans (h.freeId s _ _) (State.recordReadAnswered_closed h _ _ _ _)
      · exact h.refl s
    · exact h.refl s
  case replayWriteIssue => exact h.trans (s.handReplayWrite_closed h) (State.issueRecordRead_closed h _)
  case replayWriteResponse id code =>
    split
    · split
      · exact h.trans (h.freeId s _ _) (State.replayWriteAnswered_closed h _ _ _ _)
      · exact h.refl s
    · exact h.refl s
  case rollbackAnchorResponse id code => exact s.anchorAnswered_closed h _ _ _ _ (State.rollbackSucceeds_closed h)
  case recoverAnchorResponse id code => exact s.anchorAnswered_closed h _ _ _ _ (State.recoverSucceeds_closed h)
  case holdTimeout =>
    split
    · exact s.timeOutEntry_closed h _
    · exact h.refl s
  case memTimeout ref =>
    cases ref with
    | captureRead k => exact s.timeOutCapture_closed h k _ _ _ _ (by simp)
    | recordWrite k => exact s.timeOutCapture_closed h k _ _ _ _ (by simp)
    | anchorWrite d => exact s.timeOutAnchor_closed h d
    | walkRead => exact s.timeOutWalkRead_closed h
    | replayWrite => exact s.timeOutReplayWrite_closed h
    | replayBuffer => exact s.timeOutBuffer_closed h

/-- A domain operation is a chain of moves up to its reply (R25, R28). -/
theorem State.domainOp_closed (h : Closed R) (ha : ∀ t q r, R t (t.answer q r)) (s : State) (b : Byte) (op : DomOp)
    (start : State → DomId → State) (hs : ∀ t d, R t (start t d)) : R s (s.domainOp b op start) := by
  unfold State.domainOp; dsimp only; split
  · exact ha s _ _
  · next d _ =>
    split
    · exact h.trans (s.updDom_closed h d (fun x => { x with lastOp := some op, lastResult := .ok })
        (.live rfl rfl rfl (.inl rfl))) (h.trans (hs _ d) (ha _ _ _))
    · exact ha s _ _

/-- FORMAT, RECOVER, COMMIT, ROLLBACK and CLOSE are chains of moves and one reply. -/
theorem exec_operation_closed (h : Closed R) (ha : ∀ t q r, R t (t.answer q r)) (op : DomOp) (b : Byte) (s t : State)
    (he : exec (opCommand op b) s = .next t) : R s t := by
  have run : ∀ start : State → DomId → State, (∀ t d, R t (start t d)) →
      inRequest (operationRequest b op) (fun s => s.domainOp b op start) s = .next t → R s t := by
    intro start hs hn
    refine whileRunning_closed h _ s t ?_ hn
    split
    · exact s.domainOp_closed h ha b op start hs
    · exact h.refl s
  cases op
  · exact run _ (State.startFormat_closed h) he
  · exact run _ (State.startRecover_closed h) he
  · exact run _ (fun t d => t.drain_closed h d .commit) he
  · exact run _ (fun t d => t.drain_closed h d .rollback) he
  · exact run _ (fun t d => t.drain_closed h d .close) he

end Sys2Proof.Machine
end

