-- ==== Sys2Proof/Laws/Ops.lean ====
section
/-! SUPPORT. For each shared operation one lemma that says once everything it can do: which fields it writes, and with what.
Later proofs cite these and do not unfold the operations. -/

namespace Sys2Proof.Machine

/-! ### Commands in operation -/

/-- A command of the part takes its effect while the part is not in reset. -/
theorem whileRunning_next (f : State → State) (s : State) (h : s.inReset = false) : whileRunning f s = .next (f s) := by
  simp [whileRunning, h]

/-- A command of the part changes nothing while the part is in reset. -/
theorem whileRunning_inReset (f : State → State) (s : State) (h : s.inReset = true) : whileRunning f s = .next s := by
  simp [whileRunning, h]

/-- A request takes its effect while the frame engine receives its bytes. -/
theorem inRequest_next (bytes : List Byte) (f : State → State) (s : State) (h : s.Receiving bytes) :
    inRequest bytes f s = .next (f s) := by
  obtain ⟨h1, h2, h3⟩ := h
  simp [inRequest, whileRunning, h1, h2, h3]

/-- A request of an opcode with its arguments takes its effect while the frame engine receives it. -/
theorem request_next (opcode : Byte) (args : List Byte) (f : State → State) (s : State) (h : s.Receives opcode args) :
    inRequest (requestBytes opcode args) f s = .next (f s) := inRequest_next _ f s h

/-- A request whose bytes are not those that the frame engine receives changes nothing. -/
theorem inRequest_other (bytes : List Byte) (f : State → State) (s : State) (h : ¬s.frame.request <+: bytes) :
    inRequest bytes f s = .next s := by
  have h' : s.frame.request.isPrefixOf bytes = false := by
    rw [← Bool.not_eq_true, List.isPrefixOf_iff_prefix]; exact h
  simp [inRequest, whileRunning, h']

/-- An idle step at the management port writes the frame engine and what is still clocked. -/
theorem State.clockByte_eq (s : State) :
    ∃ frame clocking, s.clockByte = { s with frame := frame, pins := { s.pins with clocking := clocking } } := by
  unfold State.clockByte
  split
  · split <;> exact ⟨_, _, rfl⟩
  · exact ⟨_, _, rfl⟩

/-! ### Counters, faults, sweeps -/

/-- A counter's increment writes the domain's counters and may raise one event (R139, R142). -/
theorem State.count_eq (s : State) (d : DomId) (c : Counter) (n : Nat) :
    ∃ cs flags, s.count d c n = { s with
      domains := s.domains.set d { s.dom d with counters := cs }, faults := { s.faults with flags := flags } } := by
  unfold State.count
  dsimp only
  split
  · exact ⟨_, _, rfl⟩
  · exact ⟨_, s.faults.flags, rfl⟩

/-- An offered record writes the fault queue, the lost count and the flags (R150, R151). -/
theorem State.enqueueFault_eq (s : State) (r : FaultRecord) :
    ∃ queue lost flags, s.enqueueFault r = { s with faults := { s.faults with
      queue := queue, lost := lost, flags := flags } } := by
  unfold State.enqueueFault
  split <;> exact ⟨_, _, _, rfl⟩

/-- The sweep engine after a request for a sweep of a domain (R78). -/
def requested (q : Sweeper) (d : DomId) : Sweeper :=
  match q.running with
  | none => { q with running := some (sweepFrom d) }
  | some r =>
    if r.domain = d then { q with running := some { r with left := Config.filterSets } }
    else if d ∈ q.queue then q
    else { q with queue := q.queue ++ [d] }

/-- A request for a sweep writes the sweep engine only (R78). -/
theorem State.requestSweep_eq (s : State) (d : DomId) : s.requestSweep d = { s with sweep := requested s.sweep d } := by
  obtain ⟨_, _, _, _, _, _, _, ⟨q, r⟩, _⟩ := s
  unfold State.requestSweep requested
  rcases r with _ | r
  · rfl
  · dsimp only
    split
    · rfl
    · split <;> rfl

/-- A sweep of the domain is pending after its request (R77, R78). -/
theorem State.requestSweep_pending (s : State) (d : DomId) : (s.requestSweep d).sweepPending d = true := by
  rw [State.requestSweep_eq]
  unfold State.sweepPending requested
  dsimp only
  split
  · simp [sweepFrom]
  · next r hr =>
    split
    · next h => simp [h]
    · split
      · next h => simp [h]
      · simp

/-- An insertion writes the set of its line, and may count an eviction (R73 to R75). -/
theorem State.filterInsert_eq (s : State) (d : DomId) (l : Line) (parity : Bool) :
    ∃ set domains flags, s.filterInsert d l parity = { s with
      filter := s.filter.set (setIndex l) set, domains := domains, faults := { s.faults with flags := flags } } := by
  unfold State.filterInsert
  dsimp only
  split
  · exact ⟨_, s.domains, s.faults.flags, rfl⟩
  · split
    · exact ⟨_, s.domains, s.faults.flags, rfl⟩
    · obtain ⟨cs, flags, h⟩ := State.count_eq (s.setFilterSet (setIndex l)
        { ways := (s.filterSet (setIndex l)).ways.set (s.filterSet (setIndex l)).pointer
            { valid := true, domain := d, line := l, parity := parity },
          pointer := (s.filterSet (setIndex l)).pointer + 1 })
        (s.filterSet (setIndex l)).ways[(s.filterSet (setIndex l)).pointer].domain .evictions 1
      rw [h]
      exact ⟨_, _, _, rfl⟩

/-! ### Hand-overs -/

/-- What hand-overs do, whichever of them go: they set the slots' two hand-over bits, the domains' anchor jobs and the walk,
and add accesses to the tails of the own lists (R5). -/
structure HandedFrom (s t : State) : Prop where
  slot : ∀ k, ∃ read write, t.slot k = { s.slot k with readIssued := read, writeHanded := write }
  domain : ∀ d, ∃ job, t.dom d = { s.dom d with anchor := job }
  rest : ∃ reads writes walk, t = { s with
    slots := t.slots
    domains := t.domains
    replay := { s.replay with walk := walk }
    mem := { reads := { s.mem.reads with own := s.mem.reads.own ++ reads }
             writes := { s.mem.writes with own := s.mem.writes.own ++ writes } } }

theorem HandedFrom.refl (s : State) : HandedFrom s s :=
  ⟨fun _ => ⟨_, _, rfl⟩, fun _ => ⟨_, rfl⟩, [], [], s.replay.walk, by simp⟩

theorem HandedFrom.trans {s t u : State} (h : HandedFrom s t) (h' : HandedFrom t u) : HandedFrom s u := by
  obtain ⟨a1, a2, r1, w1, k1, e1⟩ := h
  obtain ⟨b1, b2, r2, w2, k2, e2⟩ := h'
  refine ⟨fun k => ?_, fun d => ?_, r1 ++ r2, w1 ++ w2, k2, ?_⟩
  · obtain ⟨x, y, h⟩ := a1 k
    obtain ⟨x', y', h'⟩ := b1 k
    exact ⟨x', y', by rw [h', h]⟩
  · obtain ⟨x, h⟩ := a2 d
    obtain ⟨x', h'⟩ := b2 d
    exact ⟨x', by rw [h', h]⟩
  · rw [e2, e1]; simp

theorem State.setSlot_handed (s : State) (k : SlotId) (r w : Bool) :
    HandedFrom s (s.setSlot k { s.slot k with readIssued := r, writeHanded := w }) := by
  refine ⟨fun j => ?_, fun d => ⟨_, rfl⟩, [], [], s.replay.walk, by simp [State.setSlot]⟩
  rw [State.setSlot_slot]; split
  · next h => subst h; exact ⟨r, w, rfl⟩
  · exact ⟨_, _, rfl⟩

theorem State.handOver_handed (s : State) (a : OwnAccess) : HandedFrom s (s.handOver a) := by
  refine ⟨fun k => ⟨_, _, by simp; rfl⟩, fun d => ⟨_, by simp; rfl⟩, ?_⟩
  rcases a with ⟨o, d, dir, _⟩
  cases dir
  · exact ⟨[_], [], s.replay.walk, by simp [State.handOver, State.setSide, State.side]; rfl⟩
  · exact ⟨[], [_], s.replay.walk, by simp [State.handOver, State.setSide, State.side]; rfl⟩

theorem State.setWalk_handed (s : State) (w : Option Walk) : HandedFrom s (s.setWalk w) := by
  refine ⟨fun k => ⟨_, _, by simp; rfl⟩, fun d => ⟨_, by simp; rfl⟩, [], [], w, ?_⟩
  simp [State.setWalk]

theorem State.updDom_handed (s : State) (d : DomId) (j : AnchorJob) :
    HandedFrom s (s.updDom d fun x => { x with anchor := j }) := by
  refine ⟨fun k => ⟨_, _, by simp; rfl⟩, fun o => ?_, [], [], s.replay.walk, ?_⟩
  · rw [State.updDom_dom]; split
    · next h => subst h; exact ⟨j, rfl⟩
    · exact ⟨_, rfl⟩
  · simp [State.updDom, State.setDom]

theorem State.handCaptureRead_handed (s : State) (k : SlotId) : HandedFrom s (s.handCaptureRead k) := by
  unfold State.handCaptureRead; split
  · exact (s.setSlot_handed k true (s.slot k).writeHanded).trans (State.handOver_handed _ _)
  · exact .refl s

theorem State.handRecordWrite_handed (s : State) (k : SlotId) : HandedFrom s (s.handRecordWrite k) := by
  unfold State.handRecordWrite; split
  · exact (s.setSlot_handed k (s.slot k).readIssued true).trans (State.handOver_handed _ _)
  · exact .refl s

theorem State.handAnchorWrite_handed (s : State) (d : DomId) : HandedFrom s (s.handAnchorWrite d) := by
  unfold State.handAnchorWrite; split
  · split
    · exact (s.updDom_handed d _).trans (State.handOver_handed _ _)
    · exact .refl s
  · exact .refl s

theorem State.handAnchorRead_handed (s : State) : HandedFrom s s.handAnchorRead := by
  unfold State.handAnchorRead; split
  · split
    · exact (s.setWalk_handed _).trans (State.handOver_handed _ _)
    · exact .refl s
  · exact .refl s

theorem State.handReplayWrite_handed (s : State) : HandedFrom s s.handReplayWrite := by
  unfold State.handReplayWrite; split
  · split
    · split
      · exact (s.setWalk_handed _).trans (State.handOver_handed _ _)
      · exact .refl s
    · exact .refl s
  · exact .refl s

theorem State.issueRecordRead_handed (s : State) : HandedFrom s s.issueRecordRead := by
  unfold State.issueRecordRead; split
  · split
    · split
      · exact (s.setWalk_handed _).trans (State.handOver_handed _ _)
      · exact .refl s
    · exact .refl s
  · exact .refl s

/-- Hand-overs leave what is outstanding, what holds an ID, the sweeps and the time as they are, so no hand-over changes the
condition of another (R29, R53, R57, R82, R110, R123, R131). -/
theorem HandedFrom.conditions {s t : State} (h : HandedFrom s t) :
    t.outstandingWrites = s.outstandingWrites ∧ t.mem.writes.issuedOwn = s.mem.writes.issuedOwn ∧ t.sweep = s.sweep ∧
      t.time = s.time ∧ t.hold = s.hold ∧ t.faults = s.faults ∧ t.frame = s.frame ∧ t.filter = s.filter := by
  obtain ⟨_, _, r, w, k, e⟩ := h
  rw [e]
  exact ⟨rfl, rfl, rfl, rfl, rfl, rfl, rfl, rfl⟩

/-- Hand-overs leave everything of a domain's record but its anchor job. -/
theorem HandedFrom.record {s t : State} (h : HandedFrom s t) (d : DomId) :
    (t.dom d).config = (s.dom d).config ∧ (t.dom d).state = (s.dom d).state ∧ (t.dom d).epoch = (s.dom d).epoch ∧
      (t.dom d).brokenMark = (s.dom d).brokenMark ∧ (t.dom d).counters = (s.dom d).counters := by
  obtain ⟨j, e⟩ := h.domain d
  rw [e]
  exact ⟨rfl, rfl, rfl, rfl, rfl⟩

end Sys2Proof.Machine
end

