-- ==== Sys2Proof/Laws/PerInstr.lean ====
section
/-! SUPPORT. A statement made per command: no word of the table spells the command, since no row of the table gives bits. -/

namespace Sys2Proof.Laws.Spelling

/-- No word, of any width, spells the command. -/
def Statement (i : Instr) : Prop := ∀ nbits w : Nat, decodeTableWord nbits w ≠ some i

theorem readRequest (h : Header) : Statement (.readRequest h) := fun _ _ h => nomatch h
theorem writeAddressTaken (h : Header) : Statement (.writeAddressTaken h) := fun _ _ h => nomatch h
theorem writeRequest (beats : List WriteBeat) : Statement (.writeRequest beats) := fun _ _ h => nomatch h
theorem mspIssue (dir : Dir) (id : DownId) : Statement (.mspIssue dir id) := fun _ _ h => nomatch h
theorem forwardedResponse (id : InitId) (resp : MemResp) (busy : Bool) : Statement (.forwardedResponse id resp busy) := fun _ _ h => nomatch h
theorem upstreamResponse (dir : Dir) (id : InitId) : Statement (.upstreamResponse dir id) := fun _ _ h => nomatch h
theorem absorbedResponse (dir : Dir) (id : DownId) : Statement (.absorbedResponse dir id) := fun _ _ h => nomatch h
theorem lateResponse (dir : Dir) (id : DownId) (codes : List Code) : Statement (.lateResponse dir id codes) := fun _ _ h => nomatch h
theorem captureReadIssue (k : SlotId) : Statement (.captureReadIssue k) := fun _ _ h => nomatch h
theorem oldLineReadResponse (id : DownId) (beats : Vector Beat 8) : Statement (.oldLineReadResponse id beats) := fun _ _ h => nomatch h
theorem recordWriteIssue (k : SlotId) : Statement (.recordWriteIssue k) := fun _ _ h => nomatch h
theorem recordWriteResponse (id : DownId) (code : Code) : Statement (.recordWriteResponse id code) := fun _ _ h => nomatch h
theorem sweepVisit : Statement .sweepVisit := fun _ _ h => nomatch h
theorem format (domain : Byte) : Statement (.format domain) := fun _ _ h => nomatch h
theorem formatSlot1Issue (d : DomId) : Statement (.formatSlot1Issue d) := fun _ _ h => nomatch h
theorem formatSlot1Response (id : DownId) (code : Code) : Statement (.formatSlot1Response id code) := fun _ _ h => nomatch h
theorem formatInvalidateResponse (id : DownId) (code : Code) : Statement (.formatInvalidateResponse id code) := fun _ _ h => nomatch h
theorem recover (domain : Byte) : Statement (.recover domain) := fun _ _ h => nomatch h
theorem anchorReadIssue : Statement .anchorReadIssue := fun _ _ h => nomatch h
theorem anchorReadResponse (id : DownId) (beats : Vector Beat 8) : Statement (.anchorReadResponse id beats) := fun _ _ h => nomatch h
theorem commit (domain : Byte) : Statement (.commit domain) := fun _ _ h => nomatch h
theorem rollback (domain : Byte) : Statement (.rollback domain) := fun _ _ h => nomatch h
theorem close (domain : Byte) : Statement (.close domain) := fun _ _ h => nomatch h
theorem anchorWriteIssue (d : DomId) : Statement (.anchorWriteIssue d) := fun _ _ h => nomatch h
theorem commitAnchorResponse (id : DownId) (code : Code) : Statement (.commitAnchorResponse id code) := fun _ _ h => nomatch h
theorem recordReadResponse (id : DownId) (beats : Vector Beat 16) : Statement (.recordReadResponse id beats) := fun _ _ h => nomatch h
theorem replayWriteIssue : Statement .replayWriteIssue := fun _ _ h => nomatch h
theorem replayWriteResponse (id : DownId) (code : Code) : Statement (.replayWriteResponse id code) := fun _ _ h => nomatch h
theorem rollbackAnchorResponse (id : DownId) (code : Code) : Statement (.rollbackAnchorResponse id code) := fun _ _ h => nomatch h
theorem recoverAnchorResponse (id : DownId) (code : Code) : Statement (.recoverAnchorResponse id code) := fun _ _ h => nomatch h
theorem tick : Statement .tick := fun _ _ h => nomatch h
theorem holdTimeout : Statement .holdTimeout := fun _ _ h => nomatch h
theorem memTimeout (ref : OwnRef) : Statement (.memTimeout ref) := fun _ _ h => nomatch h
theorem frameStart : Statement .frameStart := fun _ _ h => nomatch h
theorem frameEnd : Statement .frameEnd := fun _ _ h => nomatch h
theorem crcMismatch (bytes : List Byte) : Statement (.crcMismatch bytes) := fun _ _ h => nomatch h
theorem unknownOpcode (opcode : Byte) : Statement (.unknownOpcode opcode) := fun _ _ h => nomatch h
theorem ident : Statement .ident := fun _ _ h => nomatch h
theorem getStatus : Statement .getStatus := fun _ _ h => nomatch h
theorem setMask (bits : BitVec 24) : Statement (.setMask bits) := fun _ _ h => nomatch h
theorem clearEvents (bits : BitVec 24) : Statement (.clearEvents bits) := fun _ _ h => nomatch h
theorem setTiming (tickDiv : BitVec 16) (holdTimeout : BitVec 16) (memTimeout : BitVec 16) : Statement (.setTiming tickDiv holdTimeout memTimeout) := fun _ _ h => nomatch h
theorem setRegion (entry : Byte) (flags : Byte) (base : Addr) (pages : BitVec 32) : Statement (.setRegion entry flags base pages) := fun _ _ h => nomatch h
theorem getRegion (entry : Byte) : Statement (.getRegion entry) := fun _ _ h => nomatch h
theorem setDomain (domain : Byte) (journalBase : Addr) (capacity : BitVec 32) (anchorBase : Addr) (flags : Byte) (highMark : BitVec 32) : Statement (.setDomain domain journalBase capacity anchorBase flags highMark) := fun _ _ h => nomatch h
theorem getDomain (domain : Byte) : Statement (.getDomain domain) := fun _ _ h => nomatch h
theorem getCounter (selector : Byte) (subtract : Byte) : Statement (.getCounter selector subtract) := fun _ _ h => nomatch h
theorem takeFault : Statement .takeFault := fun _ _ h => nomatch h
theorem replyComplete : Statement .replyComplete := fun _ _ h => nomatch h
theorem cutReply : Statement .cutReply := fun _ _ h => nomatch h
theorem shortFrame : Statement .shortFrame := fun _ _ h => nomatch h
theorem longFrame : Statement .longFrame := fun _ _ h => nomatch h
theorem rstNAssert : Statement .rstNAssert := fun _ _ h => nomatch h
theorem rstNRelease : Statement .rstNRelease := fun _ _ h => nomatch h
theorem powerOnReset : Statement .powerOnReset := fun _ _ h => nomatch h
theorem supplyLoss : Statement .supplyLoss := fun _ _ h => nomatch h
theorem domainOp (domain : Byte) (operation : Byte) : Statement (.domainOp domain operation) := fun _ _ h => nomatch h
theorem supplyStable : Statement .supplyStable := fun _ _ h => nomatch h

end Sys2Proof.Laws.Spelling
end

