-- ==== Sys2Proof/Laws/WorkList.lean ====
section
/-! SUPPORT. What one step of a happening's work list does to the hold queue, and the sets of entries it adds to the list in
the words of the statements (R60, R90, R91). -/

namespace Sys2Proof.Machine

theorem State.forwardEntry_hold (s : State) (e : Entry) :
    (s.forwardEntry e).hold = s.hold.filter fun x => decide (x.arrival ≠ e.arrival) := by
  unfold State.forwardEntry; simp [State.dropEntry]

theorem State.refuseEntry_hold (s : State) (e : Entry) :
    (s.refuseEntry e).hold = s.hold.filter fun x => decide (x.arrival ≠ e.arrival) := by
  unfold State.refuseEntry; simp [State.dropEntry]

theorem State.replaceEntry_hold (s : State) (e : Entry) :
    (s.replaceEntry e).hold = s.hold.map fun x => if x.arrival = e.arrival then e else x := rfl

theorem State.count_hold (s : State) (d : DomId) (c : Counter) (n : Nat) : (s.count d c n).hold = s.hold := by
  obtain ⟨_, _, h⟩ := s.count_eq d c n; rw [h]

theorem State.enqueueFault_hold (s : State) (r : FaultRecord) : (s.enqueueFault r).hold = s.hold := by
  obtain ⟨_, _, _, h⟩ := s.enqueueFault_eq r; rw [h]

/-- A re-evaluation takes its entry out of the hold queue, or keeps it in its place with its arrival sequence; which of the two
it does is what the decision says, and every other entry stays as it is (R90). -/
theorem State.reevaluated_hold (s : State) (e : Entry) :
    let next := s.carryOut State.replaceEntry e (s.decision e)
    ((s.decision e).leaves = true ∧ next.hold = s.hold.filter fun x => decide (x.arrival ≠ e.arrival)) ∨
      ((s.decision e).leaves = false ∧ ∃ f : Entry, f.arrival = e.arrival ∧
        next.hold = s.hold.map fun x => if x.arrival = e.arrival then f else x) := by
  dsimp only
  cases s.decision e with
  | forward n =>
    refine .inl ⟨rfl, ?_⟩
    unfold State.carryOut State.forwardCounting; dsimp only
    split <;> (try split) <;> simp [State.count_hold, State.forwardEntry_hold]
  | refuseOff =>
    refine .inl ⟨rfl, ?_⟩
    unfold State.carryOut; dsimp only
    split <;> simp [State.count_hold, State.refuseEntry_hold]
  | refuseFull =>
    refine .inl ⟨rfl, ?_⟩
    unfold State.carryOut; dsimp only
    split <;> simp [State.count_hold, State.refuseEntry_hold, State.journalFull, State.fault, State.enqueueFault_hold]
  | breakForward =>
    refine .inl ⟨rfl, ?_⟩
    unfold State.carryOut; dsimp only
    split
    · rw [State.forwardEntry_hold]
      simp [State.breakDomain, State.requestSweep_eq, State.journalFull, State.fault, State.enqueueFault_hold]
    · rw [State.forwardEntry_hold]
  | hold w ls c =>
    exact .inr ⟨rfl, { e with wait := w, uncovered := ls, carried := c }, rfl, s.replaceEntry_hold _⟩
  | allocate lines =>
    refine .inr ⟨rfl, ?_⟩
    unfold State.carryOut; dsimp only
    split
    · exact ⟨{ e with wait := .capture, uncovered := lines, own := e.own ++ lines.filter (fun l => decide (l ∉ e.own)),
                      carried := false }, rfl, by rw [State.replaceEntry_hold, (State.allocateSlots_hold_host _ _ _ _).1]⟩
    · exact ⟨e, rfl, s.replaceEntry_hold e⟩

theorem mem_addMissing (a : Nat) (todo more : List Nat) : a ∈ addMissing todo more ↔ a ∈ todo ∨ a ∈ more := by
  unfold addMissing; simp; tauto

/-- The ORDER waiters that a departure adds to the list are those behind the departed entry (R91). -/
theorem State.orderWaiters_behind (s : State) (e : Entry) :
    s.orderWaiters e.req.header.id e.req.kind = s.behind [e] := by
  unfold State.orderWaiters State.behind State.arrivals
  congr 2
  funext x
  simp [Bool.and_assoc, eq_comm (a := e.req.header.id), eq_comm (a := e.req.kind)]

/-- The entries that a BREAK adds to the list are the domain's that wait for the capture path (R60). -/
theorem State.breakSet_waiting (s : State) (d : DomId) :
    s.breakSet d = s.waiting d [.capture, .line, .slot, .space] := by
  have : (fun x : Entry => decide (x.domain = some d) && capturePathWait x) =
      fun x : Entry => decide (x.domain = some d) && decide (x.wait ∈ [Wait.capture, .line, .slot, .space]) := by
    funext x; unfold capturePathWait; congr 1; cases x.wait <;> decide
  unfold State.breakSet State.waiting State.arrivals
  rw [this]

end Sys2Proof.Machine
end

