-- ==== Sys2Proof/Tests/Slice0.lean ====
section
/-! SUPPORT. Tests of the model and witnesses of the statements' hypotheses. Expected results are the manual's examples, or
are worked by hand from the rule named in each test's comment. -/

namespace Sys2Proof.Tests

open Sys2Proof.Machine

-- One declaration at a time: the kernel's evaluations then share one deep stack.
set_option Elab.async false

/-! ### Well-formedness: each check refuses an ill-formed command -/

/-- A header to vary. -/
def header : Header := { id := 3#4, addr := 0x1000#40, len := 1, size := .eight, burst := .incr, exclusive := false }

theorem test_wellFormed_header : Instr.wellFormed (.readRequest header) = true := by decide
theorem test_illFormed_noBeats : Instr.wellFormed (.readRequest { header with len := 0 }) = false := by decide
theorem test_illFormed_tooManyBeats : Instr.wellFormed (.writeAddressTaken { header with len := 257 }) = false := by decide
theorem test_illFormed_wrapTwo :
    Instr.wellFormed (.readRequest { header with burst := .wrap, size := .two, addr := 0x1001#40 }) = false := by decide
theorem test_illFormed_wrapFour :
    Instr.wellFormed (.readRequest { header with burst := .wrap, size := .four, addr := 0x1002#40 }) = false := by decide
theorem test_illFormed_wrapEight :
    Instr.wellFormed (.readRequest { header with burst := .wrap, addr := 0x1004#40 }) = false := by decide
theorem test_illFormed_noWriteBeats : Instr.wellFormed (.writeRequest []) = false := by decide
theorem test_illFormed_forwardedId : Instr.wellFormed (.mspIssue .read 15#5) = false := by decide
theorem test_illFormed_noReadBeats : Instr.wellFormed (.forwardedResponse 0#4 (.read []) false) = false := by decide
theorem test_illFormed_lateId : Instr.wellFormed (.lateResponse .read 3#5 [.okay]) = false := by decide
theorem test_illFormed_lateCodes : Instr.wellFormed (.lateResponse .read 16#5 []) = false := by decide
theorem test_illFormed_recordId : Instr.wellFormed (.recordWriteResponse 15#5 .okay) = false := by decide
theorem test_illFormed_shortRequest : Instr.wellFormed (.crcMismatch [1#8]) = false := by decide
theorem test_illFormed_knownOpcode : Instr.wellFormed (.unknownOpcode 12#8) = false := by decide
theorem test_illFormed_knownOperation : Instr.wellFormed (.domainOp 0#8 5#8) = false := by decide

/-! ### The manual's examples of layouts and arithmetic -/

/-- R177: the CRC-32 of the nine ASCII bytes "123456789". -/
theorem test_crc32_example : crc32 [0x31, 0x32, 0x33, 0x34, 0x35, 0x36, 0x37, 0x38, 0x39] = 0xE3069283#32 := by
  decide +kernel
/-- R177: the CRC-8 of the same bytes, and of the requests IDENT and GET_STATUS. -/
theorem test_crc8_examples : crc8 [0x31, 0x32, 0x33, 0x34, 0x35, 0x36, 0x37, 0x38, 0x39] = 0xF4#8 ∧
    crc8 [0x01] = 0x07#8 ∧ crc8 [0x02] = 0x0E#8 := by decide +kernel
/-- Section 4.1: the set indexes of the manual's table of examples. -/
theorem test_setIndex_examples : setIndex 0x5C#34 = 92 ∧ setIndex 0x25D#34 = 92 ∧ setIndex 0x25C#34 = 93 ∧
    setIndex 0x800005C#34 = 92 ∧ setIndex 0x800000#34 = 32 ∧ setIndex 0x800201#34 = 32 := by decide +kernel
/-- R176: the marker of an anchor line stands little-endian in its first four bytes, and the domain follows. -/
theorem test_anchor_marker : (anchorLine 2 6#32 16).take 5 = [0x71, 0x0A, 0x9E, 0x3C, 0x02] := by decide +kernel
/-- R2: an INCR write of two beats from 0x1078 touches two lines; its strobes choose them. -/
theorem test_touched_lines :
    touchedLines { header := { header with addr := 0x1078#40, len := 2 }, kind := .read, data := [] } = [0x41#34, 0x42#34] ∧
    touchedLines { header := { header with addr := 0x1078#40, len := 2 }, kind := .write,
                   data := [{ data := 0#64, strobes := 0#8 }, { data := 0#64, strobes := 1#8 }] } = [0x42#34] := by
  decide +kernel
/-- R2: a WRAP burst of four eight-byte beats from 0x1038 goes round to 0x1020. -/
theorem test_wrap_extent : extent { header with addr := 0x1038#40, len := 4, burst := .wrap } =
    [(0x1038, 0x1040), (0x1020, 0x1028), (0x1028, 0x1030), (0x1030, 0x1038)] := by decide
/-- R139: an increment by 3 of a counter one below its limit, under WRAP and under SATURATE. -/
theorem test_counter_limits : incremented .wrap 0xFFFFFFFF#32 3 = 2#32 ∧
    incremented .saturate 0xFFFFFFFF#32 3 = 0xFFFFFFFF#32 := by decide

/-! ### States to start from -/

/-- The next state of a command satisfies a test. -/
def runs (c : Instr) (s : State) (p : State → Bool) : Bool :=
  match exec c s with
  | .next t => p t
  | _ => false

/-- A frame's request has arrived. -/
def asking : State := { State.reset with
  pins := { supply := .stable, rstN := true, csN := false, clocking := [] }, frame := { FrameEngine.reset with state := .request } }

/-- A reply is being shifted out, with something latched. -/
def replying (l : Latch) : State := { asking with
  frame := { FrameEngine.reset with state := .reply, request := [2#8, 14#8], reply := [0#8, 0#8], latch := l } }

/-- A reply has been shifted out. -/
def trailing : State := { asking with frame := { FrameEngine.reset with state := .trail } }

/-- A configuration: sixteen records at 0x100000, anchors at 0x110000. -/
def config : DomainConfig :=
  { journalBase := 0x100000#40, capacity := 16, anchorBase := 0x110000#40, policy := .refuse, highMark := 12,
    counterMode := .wrap, halfEnable := false }

/-- Domain 1 configured, in a state of its life, in epoch 5. -/
def domain (st : DomState) : Domain := { Domain.reset with config := config, state := st, epoch := 5#32 }

/-- Region 2 journals pages 4 to 7 for domain 1, region 3 guards page 8. -/
def regions : Vector Region 16 :=
  (State.reset.regions.set 2 { valid := true, base := 0x4000#40, pages := 4, mode := .journal, domain := 1 }).set 3
    { valid := true, base := 0x8000#40, pages := 1, mode := .guarded, domain := 0 }

/-- Domain 1 in a state, with the regions set and a request awaited. -/
def live (st : DomState) : State := { asking.setDom 1 (domain st) with regions := regions }

/-- A one-beat write request. -/
def write (a : Addr) : Request :=
  { header := { header with addr := a }, kind := .write, data := [{ data := 7#64, strobes := 0xFF#8 }] }

/-- A held entry of domain 1. -/
def entry (arrival : Nat) (wait : Wait) (q : Request) : Entry :=
  { req := q, region := some 2, mode := .journal, domain := some 1, arrival := arrival, wait := wait, uncovered := [],
    own := [], carried := false, deadline := none }

/-- Slot 2 captures line 0x100 for domain 1 at position 3. -/
def slot (st : SlotState) : Slot :=
  { Slot.reset with state := st, domain := 1, line := 0x100#34, position := 3, epoch := 5#32, deadline := some 0#32 }

/-- A live domain with slot 2 in use. -/
def capturing (dst : DomState) (st : SlotState) : State :=
  (live dst |>.setDom 1 { domain dst with slotsInUse := 1, occupancy := 4 }).setSlot 2 (slot st)

/-- An own access holds downstream ID 16. -/
def issued (s : State) (dir : Dir) (a : OwnAccess) (timedOut : Bool) : State :=
  s.setSide dir { s.side dir with issuedOwn := [{ id := 16#5, access := a, timedOut := timedOut }] }

/-- An own access of domain 1. -/
def access (owner : Owner) (dir : Dir) (position : Option Nat) : OwnAccess :=
  { owner := owner, domain := 1, dir := dir, addr := 0x100180#40, beats := 8, data := [], position := position,
    deadline := some 0#32 }

/-- An anchor write of domain 1 for an epoch is handed over and holds ID 16. -/
def anchoring (st : DomState) (use : AnchorUse) : State :=
  issued (live st |>.setDom 1 { domain st with anchor := .sent 6#32 .ok, occupancy := 4 }) .write
    (access (.anchorWrite use) .write none) false

/-- A walk of domain 1. -/
def walk (k : WalkKind) (p : WalkPhase) : Walk :=
  { kind := k, domain := 1, phase := p, epoch := 5#32, cursor := none, buffer := none, readOut := none, writeOut := none,
    skips := 0, failures := 0 }

/-- A walk in the replay engine. -/
def walking (w : Walk) : State := (live .rolling).setWalk (some w)

/-- Eight OKAY beats. -/
def goodBeats : Vector Beat 8 := Vector.replicate 8 { code := .okay, data := 0x0807060504030201#64 }
/-- Eight beats of which the last carries ERROR. -/
def badBeats : Vector Beat 8 := goodBeats.set 7 { code := .error, data := 0#64 }

/-! ### One step of each command -/

/-- R7, R93: a read of no region is forwarded at once. -/
theorem test_readRequest_forwards : runs (.readRequest header) State.reset (fun t =>
    decide (t.mem.reads.forwarded.map (·.arrival) = [0] ∧ t.host.unanswered.map (·.mark) = [.forwarded])) = true := by
  decide +kernel
/-- R3: a read that crosses a page is refused and recorded. -/
theorem test_readRequest_badBurst : runs (.readRequest { header with addr := 0x1FF8#40, len := 2 }) State.reset (fun t =>
    decide (t.faults.queue.map (·.kind) = [.badBurst] ∧ t.host.unanswered.map (·.mark) = [.refused])) = true := by
  decide +kernel
/-- R86: a write address keeps a place. -/
theorem test_writeAddressTaken_keeps : runs (.writeAddressTaken header) State.reset (fun t =>
    decide (t.host.kept.length = 1 ∧ t.hold.length = 0)) = true := by decide +kernel
/-- R48: a write of an OPEN domain to a line that misses takes slot 0 and position 0. -/
theorem test_writeRequest_captures :
    runs (.writeRequest (write 0x4000#40).data)
      { live .openState with host := { HostPort.reset with kept := [(write 0x4000#40).header] } } (fun t =>
        decide ((t.slot 0).state = .readOld ∧ (t.slot 0).line = 0x100#34 ∧ (t.dom 1).occupancy = 1 ∧
          t.hold.map (·.wait) = [.capture] ∧ (t.dom 1).counter .writesSeen = 1#32)) = true := by decide +kernel
/-- R12: a write to a GUARD region is refused. -/
theorem test_writeRequest_guarded :
    runs (.writeRequest (write 0x8000#40).data)
      { live .openState with host := { HostPort.reset with kept := [(write 0x8000#40).header] } } (fun t =>
        decide (t.host.unanswered.map (·.mark) = [.refused] ∧ t.globals[0] = 1#32)) = true := by decide +kernel
/-- R5, R6: an own access takes the ID given and passes the turn. -/
theorem test_mspIssue_own :
    runs (.mspIssue .read 16#5) (State.reset.handOver (access (.captureRead 2) .read (some 3))) (fun t =>
      decide (t.mem.reads.issuedOwn.map (·.id) = [16#5] ∧ t.mem.reads.turn = .forwarded)) = true := by decide +kernel

/-- A forwarded access of `header` is issued, with its request at the head of its list. -/
def forwardedOut (dir : Dir) : State :=
  State.setSide { State.reset with host := { HostPort.reset with
      nextArrival := 1, unanswered := [{ arrival := 0, id := 3#4, kind := dir, len := 1, mark := .forwarded }] } } dir
    { MemSide.reset with issued := [{ arrival := 0, req := { header := header, kind := dir, data := [] } }] }

/-- R19: a response passes upstream as it arrives, and its request leaves its list. -/
theorem test_forwardedResponse_passes : runs (.forwardedResponse 3#4 (.write .decerr) false) (forwardedOut .write) (fun t =>
    decide (t.host.unanswered = [] ∧ t.host.writeUp.channel = some { id := 3#4, resp := .write .decerr })) = true := by
  decide +kernel
/-- R4: a refused read of two beats is answered with two zero beats of ERROR. -/
theorem test_upstreamResponse_refused : runs (.upstreamResponse .read 3#4)
    { State.reset with host := { HostPort.reset with
      unanswered := [{ arrival := 0, id := 3#4, kind := .read, len := 2, mark := .refused }] } } (fun t =>
    decide (t.host.readUp.channel =
      some { id := 3#4, resp := .read (List.replicate 2 { code := .error, data := 0#64 }) })) = true := by decide +kernel
/-- R6: a response that no access waits for changes nothing. -/
theorem test_absorbedResponse : runs (.absorbedResponse .read 20#5) (issued State.reset .read (access (.anchorRead false) .read none) false)
    (fun t => decide (t.mem.reads.issuedOwn.map (·.id) = [16#5] ∧ t.faults = FaultBlock.reset)) = true := by
  decide +kernel
/-- R159: a late response frees its ID and is recorded with its code. -/
theorem test_lateResponse : runs (.lateResponse .write 16#5 [.error])
    (issued State.reset .write (access .replayWrite .write (some 3)) true) (fun t =>
      decide (t.mem.writes.issuedOwn = [] ∧ t.globals[2] = 1#32 ∧ t.faults.queue.map (·.code) = [some .error])) = true := by
  decide +kernel
/-- R53: a deferred old-line read is handed over. -/
theorem test_captureReadIssue : runs (.captureReadIssue 2) (capturing .openState .readOld) (fun t =>
    decide ((t.slot 2).readIssued = true ∧ t.mem.reads.own.map (·.addr) = [0x4000#40])) = true := by decide +kernel
/-- R54: the old contents enter the buffer in address order, and the record write goes to base + 3 × 128. -/
theorem test_oldLineReadResponse : runs (.oldLineReadResponse 16#5 goodBeats)
    (issued (capturing .openState .readOld) .read (access (.captureRead 2) .read (some 3)) false) (fun t =>
      decide ((t.slot 2).state = .writeRecord ∧ (t.slot 2).buffer.take 3 = [1#8, 2#8, 3#8] ∧
        t.mem.writes.own.map (·.addr) = [0x100180#40])) = true := by decide +kernel
/-- R55: an old-line read that fails breaks an OPEN domain. -/
theorem test_oldLineReadResponse_fails : runs (.oldLineReadResponse 16#5 badBeats)
    (issued (capturing .openState .readOld) .read (access (.captureRead 2) .read (some 3)) false) (fun t =>
      decide ((t.dom 1).state = .broken ∧ (t.slot 2).state = .free ∧ t.faults.queue.map (·.kind) = [.captureFailed])) =
    true := by decide +kernel
/-- R57: a held record write is handed over. -/
theorem test_recordWriteIssue : runs (.recordWriteIssue 2) (capturing .openState .writeRecord) (fun t =>
    decide (t.mem.writes.own.map (·.beats) = [16] ∧ (t.slot 2).writeHanded = true)) = true := by decide +kernel
/-- R57: a durable record is counted and its line hits. -/
theorem test_recordWriteResponse : runs (.recordWriteResponse 16#5 .okay)
    (issued (capturing .openState .writeRecord) .write (access (.recordWrite 2) .write (some 3)) false) (fun t =>
      t.filterHit 1 0x100#34 && decide ((t.dom 1).counter .captures = 1#32 ∧ (t.slot 2).state = .free ∧
        (t.dom 1).slotsInUse = 0)) = true := by decide +kernel
/-- R32, R58: the record that ends the last capture of a draining domain ends its drain. -/
theorem test_recordWriteResponse_endsDrain : runs (.recordWriteResponse 16#5 .okay)
    (issued ((capturing .draining .writeRecord).updDom 1 fun x => { x with pending := .commit }) .write
      (access (.recordWrite 2) .write (some 3)) false) (fun t =>
      decide ((t.dom 1).state = .committing ∧ (t.dom 1).anchor = .sent 6#32 .ok)) = true := by decide +kernel
/-- R79: a visit invalidates a stale entry of its domain and moves on. -/
theorem test_sweepVisit : runs .sweepVisit
    ({ live .openState with sweep := { queue := [], running := some { domain := 1, next := 511, left := 512 } } }.setFilterSet
      511 { FilterSet.reset with
        ways := FilterSet.reset.ways.set 1 { valid := true, domain := 1, line := 0x1FF#34, parity := false } }) (fun t =>
      decide ((t.filterSet 511).ways[1].valid = false ∧
        t.sweep.running = some { domain := 1, next := 0, left := 511 })) = true := by decide +kernel
/-- R29: FORMAT hands over the slot 1 anchor of epoch 1, at anchor base + 64. -/
theorem test_format : runs (.format 1#8) (live .off) (fun t =>
    decide ((t.dom 1).state = .formatting ∧ t.mem.writes.own.map (·.addr) = [0x110040#40] ∧
      t.frame.reply = [0#8, crc8 [0#8]])) = true := by decide +kernel
/-- R25: FORMAT of an OPEN domain is answered STATE. -/
theorem test_format_state : runs (.format 1#8) (live .openState) (fun t =>
    decide ((t.dom 1).state = .openState ∧ t.frame.reply.head? = some 2#8)) = true := by decide +kernel
/-- R29, R82: FORMAT's slot 1 write goes when it may. -/
theorem test_formatSlot1Issue : runs (.formatSlot1Issue 1)
    (live .formatting |>.setDom 1 { domain .formatting with anchor := .held 1#32 .ok }) (fun t =>
      decide ((t.dom 1).anchor = .sent 1#32 .ok ∧ t.mem.writes.own.map (·.addr) = [0x110040#40])) = true := by decide +kernel
/-- R30, R31: the slot 1 write answered OKAY sets the epoch and hands over the invalidating write. -/
theorem test_formatSlot1Response : runs (.formatSlot1Response 16#5 .okay) (anchoring .formatting .formatSlot1) (fun t =>
    decide ((t.dom 1).epoch = 6#32 ∧ (t.dom 1).anchor = .invalidating ∧ t.mem.writes.own.map (·.addr) = [0x110000#40])) =
    true := by decide +kernel
/-- R31: the invalidating write answered OKAY opens the domain. -/
theorem test_formatInvalidateResponse :
    runs (.formatInvalidateResponse 16#5 .okay) (anchoring .formatting .formatInvalidate) (fun t =>
      decide ((t.dom 1).state = .openState) && t.flag (.done 1)) = true := by decide +kernel
/-- R41, R131: RECOVER starts a walk with its first anchor read. -/
theorem test_recover : runs (.recover 1#8) (live .off) (fun t =>
    decide ((t.dom 1).state = .recovering ∧ t.mem.reads.own.map (·.addr) = [0x110000#40])) = true := by decide +kernel
/-- R131: the first anchor read goes when it may. -/
theorem test_anchorReadIssue : runs .anchorReadIssue (walking (walk .recover (.anchorRead .waiting))) (fun t =>
    decide (t.mem.reads.own.map (·.addr) = [0x110000#40])) = true := by decide +kernel
/-- R131: the answer to slot 0 hands over the read of slot 1. -/
theorem test_anchorReadResponse_slot0 : runs (.anchorReadResponse 16#5 goodBeats)
    (issued (walking (walk .recover (.anchorRead .slot0))) .read (access (.anchorRead false) .read none) false) (fun t =>
      decide (t.mem.reads.own.map (·.addr) = [0x110040#40])) = true := by decide +kernel
/-- R132: two lines without the anchor marker end the walk NO_ANCHOR, in OFF. -/
theorem test_anchorReadResponse_noAnchor : runs (.anchorReadResponse 16#5 goodBeats)
    (issued (walking (walk .recover (.anchorRead (.slot1 (some (List.replicate 64 0#8)))))) .read
      (access (.anchorRead true) .read none) false) (fun t =>
      decide (t.replay.walk = none ∧ (t.dom 1).state = .off ∧ (t.dom 1).lastResult = .noAnchor)) = true := by decide +kernel
/-- R105, R110: COMMIT with no slot in use hands over the anchor of the next epoch, in slot 0. -/
theorem test_commit : runs (.commit 1#8) (live .openState) (fun t =>
    decide ((t.dom 1).state = .committing ∧ t.mem.writes.own.map (·.addr) = [0x110000#40])) = true := by decide +kernel
/-- R25: COMMIT from the last epoch is answered STATE. -/
theorem test_commit_lastEpoch : runs (.commit 1#8)
    (live .openState |>.setDom 1 { domain .openState with epoch := 0xFFFFFFFF#32 }) (fun t =>
      decide ((t.dom 1).state = .openState ∧ t.frame.reply.head? = some 2#8)) = true := by decide +kernel
/-- R127: ROLLBACK starts its walk at the top record. -/
theorem test_rollback : runs (.rollback 1#8)
    (live .openState |>.setDom 1 { domain .openState with occupancy := 4 }) (fun t =>
      decide (t.replay.walk.map (fun w => (w.kind, w.readOut)) = some (.rollback, some 3) ∧
        t.mem.reads.own.map (·.addr) = [0x100180#40])) = true := by decide +kernel
/-- R32: ROLLBACK with a slot in use drains. -/
theorem test_rollback_drains : runs (.rollback 1#8) (capturing .openState .readOld) (fun t =>
    decide ((t.dom 1).state = .draining ∧ (t.dom 1).pending = .rollback)) = true := by decide +kernel
/-- R33, R34: CLOSE refuses the held writes of its domain and enters OFF. -/
theorem test_close : runs (.close 1#8) { live .openState with hold := [entry 0 .space (write 0x4000#40)] } (fun t =>
    decide ((t.dom 1).state = .off ∧ t.hold = [] ∧ (t.dom 1).counter .refused = 1#32) && t.sweepPending 1) = true := by
  decide +kernel
/-- R110: a held anchor write of a COMMIT goes when it may. -/
theorem test_anchorWriteIssue : runs (.anchorWriteIssue 1)
    (live .committing |>.setDom 1 { domain .committing with anchor := .held 6#32 .ok }) (fun t =>
      decide ((t.dom 1).anchor = .sent 6#32 .ok)) = true := by decide +kernel
/-- R82: it waits while a sweep of the domain is pending. -/
theorem test_anchorWriteIssue_waits : runs (.anchorWriteIssue 1)
    { live .committing |>.setDom 1 { domain .committing with anchor := .held 6#32 .ok } with
      sweep := { queue := [1], running := some { domain := 0, next := 0, left := 1 } } } (fun t =>
      decide ((t.dom 1).anchor = .held 6#32 .ok)) = true := by decide +kernel
/-- R112: a commit acknowledged opens the new epoch with occupancy 0. -/
theorem test_commitAnchorResponse : runs (.commitAnchorResponse 16#5 .okay) (anchoring .committing .commit) (fun t =>
    decide ((t.dom 1).state = .openState ∧ (t.dom 1).epoch = 6#32 ∧ (t.dom 1).occupancy = 0 ∧
      (t.dom 1).counter .commits = 1#32)) = true := by decide +kernel
/-- R114: a commit whose anchor write fails breaks the domain and keeps its epoch. -/
theorem test_commitAnchorResponse_fails : runs (.commitAnchorResponse 16#5 .error) (anchoring .committing .commit) (fun t =>
    decide ((t.dom 1).state = .broken ∧ (t.dom 1).epoch = 5#32 ∧ (t.dom 1).lastResult = .failed)) = true := by decide +kernel
/-- R127: in a ROLLBACK a bad record is skipped, counted and recorded; the walk, done, ends PARTIAL. -/
theorem test_recordReadResponse_bad : runs (.recordReadResponse 16#5 (Vector.replicate 16 { code := .okay, data := 0#64 }))
    (issued (walking { walk .rollback .walk with readOut := some 3 }) .read (access .recordRead .read (some 3)) false) (fun t =>
      decide ((t.dom 1).counter .skipped = 1#32 ∧ t.faults.queue.map (·.kind) = [.replayBadRecord] ∧
        (t.dom 1).anchor = .sent 6#32 .partialResult)) = true := by decide +kernel

/-- A record of line 0x100 in the record buffer. -/
def buffered : Buffered := { position := 3, record := recordOf (slot .writeRecord), deadline := some 0#32 }

/-- R123: the buffered write goes, and with it the next read. -/
theorem test_replayWriteIssue : runs .replayWriteIssue
    (walking { walk .rollback .walk with buffer := some buffered, cursor := some 2 }) (fun t =>
      decide (t.mem.writes.own.map (·.addr) = [0x4000#40] ∧ t.mem.reads.own.map (·.addr) = [0x100100#40])) = true := by
  decide +kernel
/-- R123: a replay write answered OKAY is counted, and the walk, done, prepares the next anchor. -/
theorem test_replayWriteResponse : runs (.replayWriteResponse 16#5 .okay)
    (issued (walking { walk .rollback .walk with writeOut := some 3 }) .write (access .replayWrite .write (some 3)) false)
    (fun t => decide ((t.dom 1).counter .replayed = 1#32 ∧ t.replay.walk = none ∧ (t.dom 1).anchor = .sent 6#32 .ok)) =
    true := by decide +kernel
/-- R128: a rollback acknowledged opens the new epoch. -/
theorem test_rollbackAnchorResponse : runs (.rollbackAnchorResponse 16#5 .okay) (anchoring .rolling .rollback) (fun t =>
    decide ((t.dom 1).state = .openState ∧ (t.dom 1).counter .rollbacks = 1#32)) = true := by decide +kernel
/-- R134: a recovery acknowledged opens the domain, and one that fails leaves it OFF. -/
theorem test_recoverAnchorResponse :
    runs (.recoverAnchorResponse 16#5 .okay) (anchoring .recovering .recover) (fun t =>
      decide ((t.dom 1).state = .openState ∧ (t.dom 1).epoch = 6#32)) = true ∧
    runs (.recoverAnchorResponse 16#5 .error) (anchoring .recovering .recover) (fun t =>
      decide ((t.dom 1).state = .off ∧ (t.dom 1).lastResult = .failed)) = true := by decide +kernel
/-- R156: the tick counter wraps. -/
theorem test_tick_wraps : runs .tick { State.reset with time := { Timebase.reset with tick := 0xFFFFFFFF#32 } } (fun t =>
    decide (t.time.tick = 0#32)) = true := by decide +kernel
/-- R96: a held entry that is due is refused and recorded. -/
theorem test_holdTimeout : runs .holdTimeout
    { live .openState with hold := [{ entry 0 .space (write 0x4000#40) with deadline := some 0#32 }] } (fun t =>
      decide (t.hold = [] ∧ (t.dom 1).counter .holdTimeouts = 1#32 ∧ t.faults.queue.map (·.kind) = [.holdTimeout])) =
    true := by decide +kernel
/-- R158: an old-line read that is due is withdrawn from the own list, and its capture fails. -/
theorem test_memTimeout : runs (.memTimeout (.captureRead 2))
    ((capturing .openState .readOld).handOver (access (.captureRead 2) .read (some 3))) (fun t =>
      decide (t.mem.reads.own = [] ∧ (t.slot 2).state = .free ∧ (t.dom 1).state = .broken)) = true := by decide +kernel
/-- R158: an issued anchor write that is due keeps its ID, timed out. -/
theorem test_memTimeout_issued : runs (.memTimeout (.anchorWrite 1)) (anchoring .committing .commit) (fun t =>
    decide (t.mem.writes.issuedOwn.map (fun i => (i.id, i.timedOut)) = [(16#5, true)] ∧ (t.dom 1).state = .broken)) =
    true := by decide +kernel
/-- R161: a frame begins. -/
theorem test_frameStart : runs .frameStart State.reset (fun t =>
    decide (t.pins.csN = false ∧ t.frame.state = .request ∧ t.frame.request = [])) = true := by decide +kernel
/-- An idle step, on which the SPI host clocks what is given. -/
def idles (s : State) (clocking : List (Option Byte)) (p : State → Bool) : Bool :=
  match step { s with pins := { s.pins with clocking := clocking } } with
  | .next t => p t
  | _ => false

/-- R162: the opcode byte of SET_REGION fixes a length of thirteen; opcode 13 fixes two. -/
theorem test_opcode_byte :
    idles asking [some 6#8, none] (fun t =>
      decide (t.frame.request = [6#8] ∧ t.frame.expected = some 13 ∧ t.pins.clocking = [none])) = true ∧
    idles asking [some 13#8] (fun t => decide (t.frame.expected = some 2)) = true := by decide +kernel
/-- R161: a reply byte clocked out advances the index, and MISO carries the next byte. -/
theorem test_reply_byte : idles { replying .empty with frame := { (replying .empty).frame with reply := [0#8, 0x5A#8, 7#8] } }
    [some 0xFF#8] (fun t => decide (t.frame.index = 1 ∧ t.miso = .drives 0x5A#8)) = true := by decide +kernel
/-- R161, R163: a SET_MASK is judged with the bytes already received, and no other request is. -/
theorem test_request_prefix :
    let s := { asking with frame := { asking.frame with request := [3#8, 0#8], expected := some 5 } }
    runs (.setMask 1#24) s (fun t => decide (t.faults.mask = 1#19 ∧ t.frame.request.length = 5)) = true ∧
    runs (.clearEvents 1#24) s (fun t => decide (t.frame.state = .request)) = true := by decide +kernel
/-- R161: a frame ends. -/
theorem test_frameEnd : runs .frameEnd trailing (fun t =>
    decide (t.pins.csN = true ∧ t.frame = FrameEngine.reset)) = true := by decide +kernel
/-- R163: a SET_MASK whose CRC byte is wrong is answered CRC and sets nothing. -/
theorem test_crcMismatch : runs (.crcMismatch [3#8, 0#8, 0#8, 1#8, 0#8]) asking (fun t =>
    decide (t.frame.reply.head? = some 4#8 ∧ t.faults.mask = 0#19)) = true := by decide +kernel
/-- R163: opcode 13 is answered OPCODE. -/
theorem test_unknownOpcode : runs (.unknownOpcode 13#8) asking (fun t =>
    decide (t.frame.reply = [5#8, crc8 [5#8]])) = true := by decide +kernel
/-- R168, R179: IDENT answers 5A 16 01. -/
theorem test_ident : runs .ident asking (fun t =>
    decide (t.frame.reply.take 4 = [0#8, 0x5A#8, 0x16#8, 1#8] ∧ t.frame.request = [1#8, 7#8])) = true := by decide +kernel
/-- R168: GET_STATUS answers the tick counter in its last four bytes. -/
theorem test_getStatus : runs .getStatus { asking with time := { Timebase.reset with tick := 0x01020304#32 } } (fun t =>
    decide ((t.frame.reply.drop 10).take 4 = [1#8, 2#8, 3#8, 4#8])) = true := by decide +kernel
/-- R169: SET_MASK sets all nineteen bits, and refuses a twentieth. -/
theorem test_setMask :
    runs (.setMask 0x7FFFF#24) asking (fun t => decide (t.faults.mask = 0x7FFFF#19)) = true ∧
    runs (.setMask 0x80000#24) asking (fun t => decide (t.faults.mask = 0#19 ∧ t.frame.reply.head? = some 3#8)) = true := by
  decide +kernel
/-- R155: clearing FAULT_LOST clears the lost count. -/
theorem test_clearEvents : runs (.clearEvents 0x20000#24)
    { asking with faults := { FaultBlock.reset with flags := 0x30000#19, lost := 9 } } (fun t =>
      decide (t.faults.flags = 0x10000#19 ∧ t.faults.lost = 0)) = true := by decide +kernel
/-- R170: SET_TIMING sets the three values while every domain is OFF, and refuses TICK_DIV 1025. -/
theorem test_setTiming :
    runs (.setTiming 1024#16 65535#16 4095#16) asking (fun t =>
      decide (t.time.tickDiv = 1024 ∧ t.time.holdTimeout = 65535 ∧ t.time.memTimeout = 4095)) = true ∧
    runs (.setTiming 1025#16 0#16 0#16) asking (fun t => decide (t.frame.reply.head? = some 3#8)) = true := by decide +kernel
/-- R178: the fields of a SET_REGION: JOURNAL, domain 3, two pages at 0x4000. -/
theorem test_setRegion : runs (.setRegion 15#8 0x33#8 0x4000#40 2#32) asking (fun t =>
    decide (t.regions[15] = { valid := true, base := 0x4000#40, pages := 2, mode := .journal, domain := 3 })) = true := by
  decide +kernel
/-- R10: an entry of a domain that is not OFF cannot be replaced. -/
theorem test_setRegion_state : runs (.setRegion 2#8 0#8 0#40 0#32) (live .openState) (fun t =>
    decide (t.regions[2].valid = true ∧ t.frame.reply.head? = some 2#8)) = true := by decide +kernel
/-- R179: GET_REGION answers flags, base and pages. -/
theorem test_getRegion : runs (.getRegion 2#8) (live .openState) (fun t =>
    decide (t.frame.reply.take 11 = [0#8, 0x13#8, 0#8, 0#8, 0#8, 0x40#8, 0#8, 0#8, 0#8, 0#8, 4#8])) = true := by
  decide +kernel
/-- R23: SET_DOMAIN sets the seven fields; a capacity of 15 is refused. -/
theorem test_setDomain :
    runs (.setDomain 1#8 0x100000#40 16#32 0x110000#40 0x0D#8 12#32) asking (fun t =>
      decide ((t.dom 1).config = { config with counterMode := .saturate, halfEnable := true })) = true ∧
    runs (.setDomain 1#8 0x100000#40 15#32 0x110000#40 1#8 12#32) asking (fun t =>
      decide (t.frame.reply.head? = some 3#8 ∧ (t.dom 1).config = DomainConfig.reset)) = true := by decide +kernel
/-- R179: GET_DOMAIN answers the state at byte 19 of its data and the epoch after it. -/
theorem test_getDomain : runs (.getDomain 1#8) (live .openState) (fun t =>
    decide ((t.frame.reply.drop 20).take 5 = [3#8, 0#8, 0#8, 0#8, 5#8])) = true := by decide +kernel
/-- R143, R144: GET_COUNTER latches the counter it names. -/
theorem test_getCounter : runs (.getCounter 0xF2#8 1#8) { asking with globals := State.reset.globals.set 2 7#32 } (fun t =>
    decide (t.frame.latch = .counter (.global 2) 7#32 true ∧ (t.frame.reply.drop 1).take 4 = [0#8, 0#8, 0#8, 7#8])) =
    true := by decide +kernel

/-- A fault record. -/
def record : FaultRecord :=
  { kind := .holdTimeout, stamp := 1#32, domain := some 1, initiator := some 3#4, address := some 0x4000#40,
    position := none, code := none }

/-- R152, R179: TAKE_FAULT answers the oldest record and leaves it in the queue. -/
theorem test_takeFault : runs .takeFault { asking with faults := { FaultBlock.reset with queue := [record] } } (fun t =>
    decide (t.frame.latch = .fault record ∧ t.faults.queue.length = 1 ∧
      (t.frame.reply.drop 1).take 8 = [7#8, 7#8, 0#8, 0#8, 0#8, 1#8, 1#8, 3#8])) = true := by decide +kernel
/-- R145: the completion of a subtracting read leaves what the counter has gained since. -/
theorem test_replyComplete_subtracts : runs .replyComplete
    { replying (.counter (.global 2) 7#32 true) with globals := State.reset.globals.set 2 9#32 } (fun t =>
      decide (t.globals[2] = 2#32 ∧ t.frame.state = .trail)) = true := by decide +kernel
/-- R165: a cut reply discards its latch and takes no record. -/
theorem test_cutReply : runs .cutReply
    { replying (.fault record) with faults := { FaultBlock.reset with queue := [record] } } (fun t =>
      decide (t.faults.queue.length = 1 ∧ t.frame = FrameEngine.reset)) = true := by decide +kernel
/-- R166: a short frame is counted and raises MGMT_ERR. -/
theorem test_shortFrame : runs .shortFrame asking (fun t => decide (t.globals[3] = 1#32) && t.flag .mgmtErr) = true := by
  decide +kernel
/-- R167: a long frame is counted once. -/
theorem test_longFrame :
    runs .longFrame trailing (fun t => decide (t.globals[3] = 1#32 ∧ t.frame.ranLong = true)) = true ∧
    runs .longFrame { trailing with frame := { trailing.frame with ranLong := true } } (fun t =>
      decide (t.globals[3] = 0#32)) = true := by decide +kernel
/-- R20: RST_N takes every block to its value after reset. -/
theorem test_rstNAssert : runs .rstNAssert (live .openState) (fun t =>
    decide (t.domains = State.reset.domains ∧ t.pins.rstN = false) && t.inReset) = true := by decide +kernel
/-- R180: the reset ends as RST_N rises with the supply stable. -/
theorem test_rstNRelease : runs .rstNRelease { State.reset with pins := { State.reset.pins with rstN := false } } (fun t =>
    !t.inReset) = true := by decide +kernel
/-- R180: the part is in reset while the supply rises, and leaves it as the supply is stable. -/
theorem test_powerOnReset : runs .powerOnReset (live .openState) (fun t => t.inReset) = true := by decide +kernel
/-- R180: a loss of supply resets the part. -/
theorem test_supplyLoss : runs .supplyLoss (live .openState) (fun t =>
    decide (t.domains = State.reset.domains) && t.inReset) = true := by decide +kernel
/-- R25: operation code 6 is answered ARG. -/
theorem test_domainOp : runs (.domainOp 1#8 6#8) (live .openState) (fun t =>
    decide (t.frame.reply.head? = some 3#8 ∧ t.domains = (live .openState).domains)) = true := by decide +kernel
/-- R180: a stable supply ends the reset. -/
theorem test_supplyStable : runs .supplyStable { State.reset with pins := { State.reset.pins with supply := .rising } } (fun t =>
    !t.inReset) = true := by decide +kernel

/-! ### The statements' hypotheses can be met: one witness for each statement that has any -/

/-- The part in operation awaits the first byte of a request, so it receives any. -/
def Asks (s : State) : Prop := s.inReset = false ∧ s.frame.state = .request ∧ s.frame.request = []

theorem Asks.receives {s : State} (h : Asks s) (opcode : Byte) (args : List Byte) : s.Receives opcode args :=
  ⟨h.1, h.2.1, by rw [h.2.2]; exact List.nil_prefix⟩

theorem asks : Asks asking := ⟨rfl, rfl, rfl⟩

theorem asks_live (st : DomState) : Asks (live st) := ⟨rfl, rfl, rfl⟩

/-- Two bytes of a SET_MASK have been received. -/
def partway : State := { asking with frame := { asking.frame with request := [3#8, 0#8], expected := some 5 } }

/-- The queue is empty; in reset, a timeout due, and the two sides of the divider's end; in REQUEST the opcode byte, a later
one and the CRC byte; in REPLY a byte before the last and the last. -/
theorem witness_IdleStepIsOneBusClockAndByte :
    (asking.pending = [] ∧ asking.frame.expected ≠ some (asking.frame.request.length + 1) ∧ asking.frame.request = [] ∧
      asking.inReset = false) ∧
    (partway.pending = [] ∧ partway.frame.expected ≠ some (partway.frame.request.length + 1) ∧
      partway.frame.request ≠ [] ∧ partway.frame.state = .request) ∧
    (let f := { partway.frame with request := [3#8, 0#8, 0#8, 1#8] }
     f.state = .request ∧ f.expected = some (f.request.length + 1)) ∧
    (let f := (replying .empty).frame
     f.state = .reply ∧ f.index + 1 < f.reply.length ∧ f.reply.length ≤ { f with index := 1 }.index + 1) ∧
    trailing.frame.state = .trail ∧ State.reset.pins.clocking = [] ∧
    (State.reset.pending = [] ∧ State.reset.inReset = false ∧ State.reset.timeoutsLeft = false) ∧
    State.inReset { State.reset with pins := { State.reset.pins with rstN := false } } = true ∧
    State.timeoutsLeft { State.reset with hold := [{ entry 0 .space (write 0#40) with deadline := some 0#32 }] } = true ∧
    (∀ n ∈ [98, 99], let s := { State.reset with time := { Timebase.reset with divCount := n } }
      s.pending = [] ∧ s.inReset = false ∧ s.timeoutsLeft = false ∧
        (n = 98 → s.time.divCount + 1 < s.time.tickDiv) ∧ (n = 99 → s.time.tickDiv ≤ s.time.divCount + 1)) := by
  decide +kernel

theorem witness_ResetAndSupplyCommands :
    (State.reset.resetWith { supply := .rising, rstN := true, csN := true, clocking := [] }).pins.supply = .rising ∧
    (State.reset.resetWith { supply := .off, rstN := true, csN := true, clocking := [] }).pins.supply ≠ .rising ∧
    State.reset.pins.supply ≠ .rising := by decide +kernel

theorem witness_FrameEngineMoves :
    (let s := { State.reset with pins := { State.reset.pins with rstN := false } }
     s.inReset = true ∧ s.pins.csN = true) ∧
    (State.reset.inReset = false ∧ State.reset.pins.csN = true) ∧
    (trailing.inReset = false ∧ trailing.pins.csN = false ∧ trailing.frame.state = .trail ∧
      trailing.frame.ranLong = false) ∧
    ((replying .empty).inReset = false ∧ (replying .empty).frame.state = .reply) ∧
    (asking.inReset = false ∧ asking.frame.state = .request ∧ asking.pins.csN = false) ∧
    (let f := (replying .empty).frame
     f.reply[f.index]? = some 0#8 ∧ { f with index := 1 }.reply[1]? = some 0#8) ∧
    (let s := { trailing with frame := { trailing.frame with ranLong := true } }
     s.inReset = false ∧ s.frame.state = .trail ∧ s.frame.ranLong = true) := by decide +kernel

/-- A SET_MASK of which two bytes are there, an IDENT and an unknown opcode with a wrong CRC byte, and opcodes 0, 13 and
255. -/
theorem witness_UnjudgedRequestsChangeNothing :
    (partway.Receiving [3#8, 0#8, 0#8, 1#8, 0#8] ∧ [0#8, 0#8, 1#8].length = (argumentCount 3#8).getD 0 ∧
      0#8 ≠ crc8 [3#8, 0#8, 0#8, 1#8]) ∧
    (asking.Receiving [1#8, 6#8] ∧ ([] : List Byte).length = (argumentCount 1#8).getD 0 ∧ 6#8 ≠ crc8 [1#8]) ∧
    (asking.Receiving [13#8, 6#8] ∧ ([] : List Byte).length = (argumentCount 13#8).getD 0 ∧ 6#8 ≠ crc8 [13#8]) ∧
    (∀ opcode ∈ [0#8, 13#8, 255#8], asking.Receives opcode [] ∧ (opcode = 0 ∨ 12 < opcode.toNat)) := by
  unfold State.Receives State.Receiving; decide +kernel

theorem witness_ReplyLayout : (13#8 : Byte) = 0 ∨ 12 < (13#8).toNat := by decide

/-- A domain whose counter 2 holds 5, under each counter mode. -/
def counted (m : CounterMode) : Domain :=
  { domain .openState with config := { config with counterMode := m }, counters := (Domain.reset.counters).set 2 5#32 }

theorem witness_ReplyCompletionEffects :
    (∀ l ∈ [Latch.fault record, .counter (.domain 1 2) 7#32 true, .counter (.global 3) 7#32 true, .empty,
        .counter (.global 3) 7#32 false],
      (replying l).inReset = false ∧ (replying l).frame.state = .reply ∧ (replying l).frame.latch = l) ∧
    (∀ m, ∃ left : Count,
      let x := ((replying (.counter (.domain 1 2) 7#32 true)).setDom 1 (counted m)).dom 1
      (x.config.counterMode = .wrap → left = x.counters[2] - 7#32) ∧
      (x.config.counterMode = .saturate → left.toNat = x.counters[2].toNat - (7#32).toNat)) := by
  refine ⟨by decide +kernel, fun m => ?_⟩
  cases m
  · exact ⟨0xFFFFFFFE#32, by decide +kernel⟩
  · exact ⟨0#32, by decide +kernel⟩

theorem witness_ReadingRequestsReplyAndLatch :
    (∀ opcode args, asking.Receives opcode args) ∧ asking.faults.queue = [] ∧
    (∀ opcode args, State.Receives { asking with faults := { FaultBlock.reset with queue := [record, record] } } opcode
      args) ∧
    ((0x00#8).toNat = 16 * (0 : DomId).val + (0 : Fin 12).val ∧ (0x3B#8).toNat = 16 * (3 : DomId).val + (11 : Fin 12).val) ∧
    ((0xF0#8).toNat = 0xF0 + (0 : Fin 4).val ∧ (0xF3#8).toNat = 0xF0 + (3 : Fin 4).val) ∧
    -- selector nibbles 4 and 14, counters 12 and 15 of a domain, global counter 4, and subtract 2
    ((4 ≤ (0x40#8).toNat / 16 ∧ (0x40#8).toNat / 16 ≠ 15) ∧ (4 ≤ (0xEF#8).toNat / 16 ∧ (0xEF#8).toNat / 16 ≠ 15)) ∧
    (((0x0C#8).toNat / 16 < 4 ∧ 12 ≤ (0x0C#8).toNat % 16) ∧ ((0x3F#8).toNat / 16 < 4 ∧ 12 ≤ (0x3F#8).toNat % 16)) ∧
    ((0xF4#8).toNat / 16 = 15 ∧ 4 ≤ (0xF4#8).toNat % 16) ∧ 1 < (2#8).toNat ∧
    -- the bytes of a record's fields, present and absent
    (record.domain = some 1 ∧ (1#8).toNat = (1 : DomId).val ∧ record.initiator = some 3#4 ∧ (3#8).toNat = (3#4).toNat ∧
      record.address = some 0x4000#40 ∧ record.position = none ∧ record.code = none) :=
  ⟨asks.receives, by decide +kernel, Asks.receives ⟨rfl, rfl, rfl⟩, by decide⟩

theorem witness_MaskAndEventsSetAndCleared : 
    partway.Receives 0x03#8 (beBytes 3 (0xFFFF#24).toNat) ∧ (∀ opcode args, asking.Receives opcode args) ∧
    (0x7FFFF#24).toNat < 2 ^ 19 ∧ 2 ^ 19 ≤ (0x80000#24).toNat :=
  ⟨by unfold State.Receives State.Receiving; decide +kernel, asks.receives, by decide⟩

theorem witness_TimingSetOnlyWhileAllOff :
    let inRange := fun tickDiv memTimeout : BitVec 16 => 1 ≤ tickDiv.toNat ∧ tickDiv.toNat ≤ 1024 ∧ memTimeout.toNat ≤ 4095
    (∀ opcode args, asking.Receives opcode args ∧ (live .openState).Receives opcode args) ∧
    (¬inRange 0#16 0#16 ∧ ¬inRange 1025#16 0#16 ∧ ¬inRange 1#16 4096#16) ∧
    (inRange 1#16 0#16 ∧ inRange 1024#16 4095#16) ∧
    (∀ d, (asking.dom d).state = .off) ∧ ((live .openState).dom 1).state ≠ .off :=
  ⟨fun opcode args => ⟨asks.receives opcode args, (asks_live _).receives opcode args⟩, by decide, by decide,
    by decide +kernel⟩

/-- `live .openState` has entry 2 in JOURNAL of an OPEN domain, entry 3 in GUARD, and the others invalid. -/
theorem witness_RegionEntriesWrittenAndRead :
    let legal := fun (flags : Byte) (base : Addr) (pages : BitVec 32) =>
      base.toNat % 4096 = 0 ∧ 1 ≤ pages.toNat ∧ pages.toNat ≤ 2 ^ 28 ∧ base.toNat + pages.toNat * 4096 ≤ 2 ^ 40 ∧
        flags.toNat / 2 % 4 ≠ 3
    let s := live .openState
    let free := fun r : Region => r.valid = false ∨ r.mode ≠ .journal ∨ (s.dom r.domain).state = .off
    (∀ opcode args, s.Receives opcode args) ∧ 16 ≤ (16#8).toNat ∧ (15#8).toNat = (15 : Fin 16).val ∧
    ((1#8).getLsbD 0 = true ∧ legal 1#8 0#40 0x10000000#32 ∧ legal 1#8 0xFFFFFFF000#40 1#32 ∧
      ¬legal 1#8 0xFFFFFFF000#40 2#32 ∧ ¬legal 1#8 0x800#40 1#32 ∧ ¬legal 1#8 0#40 0#32 ∧ ¬legal 7#8 0#40 1#32) ∧
    -- a JOURNAL entry of an OFF domain may replace an invalid one, and an invalid one a GUARD one
    (free s.regions[15] ∧ free { valid := true, base := 0#40, pages := 1, mode := .journal, domain := 3 } ∧
      modeCode .journal = (0x33#8).toNat / 2 % 4 ∧ (3 : DomId).val = (0x33#8).toNat / 16 % 4) ∧
    ((0#8).getLsbD 0 = false ∧ free s.regions[3] ∧ free { valid := false, base := 0#40, pages := 0, mode := .pass, domain := 0 }) ∧
    -- a JOURNAL entry of an OPEN domain can be neither replaced nor written
    ¬free s.regions[2] ∧ ¬free { valid := true, base := 0#40, pages := 1, mode := .journal, domain := 1 } :=
  ⟨(asks_live _).receives, by decide +kernel⟩

/-- Domain 3 may be configured beside the OPEN domain 1, unless their areas overlap. -/
theorem witness_DomainConfigurationChecked :
    let legal := fun (journalBase anchorBase : Addr) (capacity highMark : BitVec 32) (flags : Byte) =>
      journalBase.toNat % 4096 = 0 ∧ 16 ≤ capacity.toNat ∧ capacity.toNat ≤ 65536 ∧
        anchorBase.toNat % 128 = 0 ∧ 1 ≤ highMark.toNat ∧ highMark.toNat ≤ capacity.toNat ∧ flags.toNat % 4 ≠ 3 ∧
        journalBase.toNat + capacity.toNat * 128 ≤ 2 ^ 40 ∧ anchorBase.toNat + 128 ≤ 2 ^ 40 ∧
        (anchorBase.toNat + 128 ≤ journalBase.toNat ∨ journalBase.toNat + capacity.toNat * 128 ≤ anchorBase.toNat)
    let s := live .openState
    (∀ opcode args, s.Receives opcode args) ∧ 4 ≤ (4#8).toNat ∧ (3#8).toNat = (3 : DomId).val ∧ (1#8).toNat = (1 : DomId).val ∧
    (legal 0x200000#40 0x180000#40 16#32 16#32 2#8 ∧ legal 0x200000#40 0x200800#40 16#32 1#32 2#8 ∧
      legal 0xFFFF800000#40 0#40 65536#32 65536#32 0#8) ∧
    (¬legal 0x200000#40 0x180000#40 15#32 15#32 2#8 ∧ ¬legal 0x200000#40 0x2007FF#40 16#32 1#32 2#8 ∧
      ¬legal 0x200000#40 0x180000#40 16#32 17#32 2#8 ∧ ¬legal 0x200000#40 0x180000#40 16#32 16#32 3#8) ∧
    (s.dom 1).state ≠ .off ∧ (s.dom 3).state = .off ∧
    (∃ o : DomId, o ≠ 3 ∧ (s.dom o).state ≠ .off ∧ areasOverlap config (s.dom o).config = true) ∧
    (∀ o : DomId, o ≠ 3 → (s.dom o).state ≠ .off →
      areasOverlap { config with journalBase := 0x200000#40, anchorBase := 0x180000#40 } (s.dom o).config = false) ∧
    policyCode .breaks = (2#8).toNat % 4 :=
  ⟨(asks_live _).receives, by decide, by decide, by decide, by decide, by decide, by decide +kernel⟩

theorem witness_DomainRecordReported : (∀ opcode args, (live .openState).Receives opcode args) ∧ 4 ≤ (4#8).toNat ∧
    (3#8).toNat = (3 : DomId).val := ⟨(asks_live _).receives, by decide⟩

/-- A number of held entries, kept places and unanswered requests. -/
def crowded (held kept unanswered : Nat) : State :=
  { State.reset with
    hold := List.replicate held (entry 0 .space (write 0#40))
    host := { HostPort.reset with
      kept := List.replicate kept header
      unanswered := List.replicate unanswered { arrival := 0, id := 3#4, kind := .read, len := 1, mark := .held } } }

theorem witness_AddressesTakenWhileRoom :
    (let s := crowded 30 1 62
     s.inReset = false ∧ s.hold.length + s.host.kept.length < 32 ∧ s.host.unanswered.length + s.host.kept.length < 64) ∧
    (let s := crowded 31 1 0
     s.inReset = false ∧ 32 ≤ s.hold.length + s.host.kept.length) ∧
    (let s := crowded 0 1 63
     s.inReset = false ∧ 64 ≤ s.host.unanswered.length + s.host.kept.length) := by decide +kernel

/-- The kept place of a write request, with nothing else at the host-side port. -/
def offered (s : State) (q : Request) : State := { s with host := { HostPort.reset with kept := [q.header] } }

/-- A read request. -/
def read (h : Header) : Request := { header := h, kind := .read, data := [] }

theorem presents_write (s : State) (a : Addr) :
    (offered s (write a)).Presents (write a) (.writeRequest (write a).data) { s with host := HostPort.reset } :=
  ⟨rfl, rfl, [], rfl, rfl⟩

theorem presents_read (s : State) (h : Header) (room : s.takesAddress = true) :
    s.Presents (read h) (.readRequest h) s := ⟨rfl, rfl, room, rfl⟩

theorem live_takes : (live .openState).inReset = false ∧ (live .openState).takesAddress = true ∧
    (live .openState).UnansweredOrdered ∧ (live .openState).HoldOrdered := by
  unfold State.UnansweredOrdered State.HoldOrdered; decide +kernel

theorem offered_open (a : Addr) : (offered (live .openState) (write a)).inReset = false ∧
    (offered (live .openState) (write a)).UnansweredOrdered ∧ (offered (live .openState) (write a)).HoldOrdered := by
  unfold State.UnansweredOrdered State.HoldOrdered
  exact ⟨rfl, ⟨.nil, fun _ h => nomatch h⟩, ⟨.nil, fun _ h => nomatch h⟩⟩

/-- With domain 1 OPEN: a read that crosses a page, a write of its journal's last bytes, a write of the GUARD page, a FIXED
and an exclusive read of the JOURNAL region. -/
theorem witness_RequestsRefusedAtClassification :
    (live .openState).inReset = false ∧ (live .openState).UnansweredOrdered ∧
    (let q := read { header with addr := 0x1FF8#40, len := 2 }
     (live .openState).Presents q (.readRequest q.header) (live .openState) ∧ crossesPage q.header = true) ∧
    (let q := read { header with len := 17 }
     (live .openState).Presents q (.readRequest q.header) (live .openState) ∧ 16 < q.header.len) ∧
    (let q := write 0x1007F8#40
     let s := offered (live .openState) q
     s.inReset = false ∧ s.UnansweredOrdered ∧
      s.Presents q (.writeRequest q.data) { live .openState with host := HostPort.reset } ∧
      crossesPage q.header = false ∧ q.header.len ≤ 16 ∧ q.kind = .write ∧ s.MeetsGuard 1 q.header ∧
      ∀ o : DomId, o < 1 → ¬s.MeetsGuard o q.header) ∧
    (let q := write 0x8000#40
     let s := offered (live .openState) q
     s.inReset = false ∧ s.UnansweredOrdered ∧
      s.Presents q (.writeRequest q.data) { live .openState with host := HostPort.reset } ∧
      s.PassesGuards q ∧ s.Governs 3 q.header.addr ∧ s.regions[3].mode = .guarded ∧ q.kind = .write) ∧
    (∀ h ∈ [{ header with addr := 0x7FF8#40, burst := .fixed }, { header with addr := 0x4000#40, exclusive := true }],
     let s := live .openState
     s.Presents (read h) (.readRequest h) s ∧ s.PassesGuards (read h) ∧ s.Governs 2 h.addr ∧ s.regions[2].mode = .journal ∧
      (h.burst ≠ .incr ∨ h.exclusive = true)) := by
  refine ⟨live_takes.1, live_takes.2.2.1, ⟨presents_read _ _ live_takes.2.1, by decide +kernel⟩,
    ⟨presents_read _ _ live_takes.2.1, by decide +kernel⟩,
    ⟨(offered_open _).1, (offered_open _).2.1, presents_write _ _, ?_⟩,
    ⟨(offered_open _).1, (offered_open _).2.1, presents_write _ _, ?_⟩, fun h hm => ⟨presents_read _ _ live_takes.2.1, ?_⟩⟩
  · unfold State.MeetsGuard; decide +kernel
  · unfold State.PassesGuards State.MeetsGuard State.Governs Region.Covers; decide +kernel
  · revert h; unfold State.PassesGuards State.MeetsGuard State.Governs Region.Covers; decide +kernel

/-- `live .openState` with a write of initiator 3 held, and region 4 in PASS. -/
def held : State :=
  { live .openState with
    hold := [entry 0 .space (write 0x4000#40)]
    host := { HostPort.reset with
      nextArrival := 1
      kept := [(write 0x9000#40).header]
      unanswered := [{ arrival := 0, id := 3#4, kind := .write, len := 1, mark := .held }] }
    regions := regions.set 4 { valid := true, base := 0x9000#40, pages := 1, mode := .pass, domain := 0 } }

/-- A request of no region, one of the PASS region behind a held one and one beside it, a read of the GUARD region, and a
write and a read of the JOURNAL region. -/
theorem witness_RequestsEvaluatedAtAcceptance :
    (held.inReset = false ∧ held.UnansweredOrdered ∧ held.HoldOrdered) ∧
    (let q := write 0x9000#40
     held.Presents q (.writeRequest q.data) { held with host := { held.host with kept := [] } } ∧ held.PassesGuards q ∧
      held.Governs 4 q.header.addr ∧ held.regions[4].mode = .pass ∧ held.HeldAlike q) ∧
    (let q := read { header with addr := 0x9FF8#40 }
     held.Presents q (.readRequest q.header) held ∧ held.PassesGuards q ∧ held.Governs 4 q.header.addr ∧
      ¬held.HeldAlike q) ∧
    (let q := read { header with addr := 0xA000#40 }
     held.Presents q (.readRequest q.header) held ∧ held.PassesGuards q ∧
      ∀ i : Fin 16, ¬held.regions[i].Covers q.header.addr) ∧
    (let q := read { header with addr := 0x8000#40 }
     held.Presents q (.readRequest q.header) held ∧ held.PassesGuards q ∧ held.Governs 3 q.header.addr ∧
      held.regions[3].mode = .guarded ∧ q.kind = .read) ∧
    (let q := read { header with addr := 0x7FF8#40 }
     held.Presents q (.readRequest q.header) held ∧ held.PassesGuards q ∧ held.Governs 2 q.header.addr ∧
      held.regions[2].mode = .journal ∧ q.header.burst = .incr ∧ q.header.exclusive = false) ∧
    (let q := write 0x4000#40
     let s := offered (live .openState) q
     s.inReset = false ∧ s.UnansweredOrdered ∧ s.HoldOrdered ∧
      s.Presents q (.writeRequest q.data) { live .openState with host := HostPort.reset } ∧ s.PassesGuards q ∧
      s.Governs 2 q.header.addr ∧ s.regions[2].mode = .journal ∧ q.header.burst = .incr ∧ q.header.exclusive = false) := by
  have room : held.takesAddress = true := by decide +kernel
  refine ⟨?_, ⟨⟨rfl, rfl, [], rfl, rfl⟩, ?_⟩, ⟨presents_read _ _ room, ?_⟩, ⟨presents_read _ _ room, ?_⟩,
    ⟨presents_read _ _ room, ?_⟩, ⟨presents_read _ _ room, ?_⟩,
    ⟨(offered_open _).1, (offered_open _).2.1, (offered_open _).2.2, presents_write _ _, ?_⟩⟩ <;>
    (simp only [State.UnansweredOrdered, State.HoldOrdered, State.PassesGuards, State.MeetsGuard, State.Governs,
      Region.Covers, State.HeldAlike]; decide +kernel)

/-- A JOURNAL write that hits, that finds its domain OFF, its journal full under REFUSE and under BREAK, that waits, and that
takes a slot. -/
theorem witness_RequestsEvaluatedAtAcceptance_decisions :
    let e := firstEntry 0 (write 0x4000#40) (some 2) .journal (some 1)
    let full := fun p : Policy =>
      (live .openState).setDom 1 { domain .openState with config := { config with policy := p }, occupancy := 16 }
    ((live .openState).setFilterSet (setIndex 0x100#34)
      { FilterSet.reset with ways := FilterSet.reset.ways.set 0 { valid := true, domain := 1, line := 0x100#34, parity := true } }
        |>.decision e) = .forward 1 ∧
    (live .openState).decision (firstEntry 0 (read { header with addr := 0x4000#40 }) (some 2) .journal (some 1)) = .forward 0 ∧
    (live .off).decision e = .refuseOff ∧ (full .refuse).decision e = .refuseFull ∧
    (full .breaks).decision e = .breakForward ∧ (full .stall).decision e = .hold .space [0x100#34] false ∧
    (live .openState).decision e = .allocate [0x100#34] := by decide +kernel

/-- A forwarded write that no response waits for. -/
def sentOn : Forwarded := { arrival := 0, req := write 0x4000#40 }

/-- A write direction with heads in its lists, a turn, and a number of IDs from 16 up held. -/
def lists (forwarded : List Forwarded) (own : List OwnAccess) (turn : Turn) (ids : Nat) : MemSide :=
  { MemSide.reset with
    forwarded := forwarded, own := own, turn := turn,
    issuedOwn := (List.range ids).map fun n =>
      { id := BitVec.ofNat 5 (16 + n), access := access .replayWrite .write none, timedOut := true } }

/-- Only one head ready, both heads with either turn, and neither, with 15 and 16 IDs held. -/
theorem witness_MspIssueTakesTurns :
    let ready := fun m : MemSide => m.own ≠ [] ∧ ∃ n : DownId, 16 ≤ n.toNat ∧ ∀ i ∈ m.issuedOwn, i.id ≠ n
    let own := [access .replayWrite .write none]
    let side := fun m => (State.reset.setSide .write m).side .write = m ∧ (State.reset.setSide .write m).inReset = false
    (∀ m ∈ [lists [sentOn] [] .own 0, lists [sentOn] own .own 16, lists [sentOn] own .forwarded 0],
      side m ∧ m.forwarded = sentOn :: [] ∧ (¬ready m ∨ m.turn = .forwarded)) ∧
    (∀ m ∈ [lists [] own .forwarded 15, lists [sentOn] own .own 15],
      side m ∧ m.own = access .replayWrite .write none :: [] ∧ (∀ i ∈ m.issuedOwn, i.id ≠ 31#5) ∧
        (m.forwarded = [] ∨ m.turn = .own)) ∧
    (∀ m ∈ [lists [] [] .own 0, lists [] own .own 16], side m ∧ m.forwarded = [] ∧ ¬ready m) := by decide +kernel

/-- Its response may go, or waits for the channel, behind another response, or for its request's turn. -/
theorem witness_ForwardedResponsesPassUpstream :
    (∀ x ∈ [(Dir.read, MemResp.read [{ code := .decerr, data := 1#64 }]), (.write, .write .okay)],
      let s := forwardedOut x.1
      s.inReset = false ∧ respDir x.2 = x.1 ∧ ((s.side x.1).issued.find? fun g => decide (g.req.header.id = 3#4)) =
          some { arrival := 0, req := { header := header, kind := x.1, data := [] } } ∧
        (match x.2 with | .read beats => beats.length = header.len | .write _ => True) ∧
        s.responseList 3#4 x.1 = { arrival := 0, id := 3#4, kind := x.1, len := 1, mark := .forwarded } :: [] ∧
        (s.up x.1).waiting = []) ∧
    (let s := (forwardedOut .write).setMark 0 .held
     s.responseList 3#4 .write = { arrival := 0, id := 3#4, kind := .write, len := 1, mark := .held } :: []) := by
  refine ⟨fun x hx => ?_, by decide +kernel⟩
  simp only [List.mem_cons, List.not_mem_nil, or_false] at hx
  rcases hx with rfl | rfl <;> decide +kernel

/-- A request of initiator 3 is the oldest of its list, with a mark, and a response waits. -/
def answering (dir : Dir) (m : Mark) : State :=
  State.setUp { State.reset with host := { HostPort.reset with
    nextArrival := 1, unanswered := [{ arrival := 0, id := 3#4, kind := dir, len := 2, mark := m }] } } dir
    { waiting := [{ id := 3#4, resp := .write .okay }], channel := none }

theorem witness_UpstreamAndAbsorbedResponses :
    ∀ dir ∈ [Dir.read, Dir.write], ∀ m ∈ [Mark.refused, .forwarded, .held],
      (answering dir m).inReset = false ∧
      (answering dir m).responseList 3#4 dir = { arrival := 0, id := 3#4, kind := dir, len := 2, mark := m } :: [] ∧
      ((answering dir m).up dir).waiting = { id := 3#4, resp := .write .okay } :: [] := by decide +kernel

theorem witness_LateResponsesAbsorbed :
    let s := issued State.reset .read (access (.anchorRead false) .read none) true
    let i : IssuedOwn := { id := 16#5, access := access (.anchorRead false) .read none, timedOut := true }
    s.inReset = false ∧ (s.side .read).IdsDistinct ∧ i ∈ (s.side .read).issuedOwn ∧ i.id = 16#5 ∧ i.timedOut = true ∧
      (∀ c ∈ [Code.okay, .okay], c = .okay) ∧
      [Code.okay, .error, .decerr] = [.okay] ++ .error :: [.decerr] ∧ (∀ b ∈ [Code.okay], b = .okay) ∧
      Code.error ≠ .okay := by
  unfold MemSide.IdsDistinct; decide +kernel

/-- An old-line read and a record write that may go, an anchor write that may and one that a sweep holds back, RECOVER's first
anchor read, a buffered replay write that may go and one that may not, and a record read to issue. -/
theorem witness_ReleaseHandsOverWhatIsClear :
    (capturing .openState .readOld).captureReadReady 2 = true ∧
    (capturing .openState .writeRecord).recordWriteReady 2 = true ∧
    (let s := (live .committing).setDom 1 { domain .committing with anchor := .held 6#32 .ok }
     (s.dom 1).anchor = .held 6#32 .ok ∧ s.anchorClear 1 = true ∧
      State.anchorClear { s with sweep := { queue := [1], running := some { domain := 0, next := 0, left := 1 } } } 1 =
        false) ∧
    (live .openState).replay.walk = none ∧
    (let s := walking (walk .recover (.anchorRead .waiting))
     s.replay.walk = some (walk .recover (.anchorRead .waiting)) ∧ s.anchorIdHeld 1 = false ∧ s.areaWriteOut 1 = false) ∧
    (∀ out : Option Nat,
      let w := { walk .rollback .walk with buffer := some buffered, writeOut := out, cursor := some 0 }
      (walking w).replay.walk = some w ∧ w.phase = .walk ∧ w.buffer = some buffered ∧ w.readOut = none ∧
        w.cursor = some 0 ∧ (walking w).lineWriteOut (recordLine buffered.record) = false ∧
        (walking w).replayIdHeld = false) :=
  ⟨by decide +kernel, by decide +kernel, by decide +kernel, rfl, by decide +kernel,
    fun _ => ⟨rfl, rfl, rfl, rfl, rfl, rfl, rfl⟩⟩

theorem witness_RequestTouchesLines :
    (read header).kind = .read ∧ (write 0x4000#40).kind = .write ∧
      (write 0x4000#40).data.length = (write 0x4000#40).header.len := by decide

/-- Behind an older entry of its ID and direction or not, without a domain, and in each state, a drain with each pending
operation, each carried bit and each broken mark. -/
theorem witness_EvaluationByDomainState :
    let behind := fun (s : State) (e : Entry) =>
      ∃ x ∈ s.hold, x.req.header.id = e.req.header.id ∧ x.req.kind = e.req.kind ∧ x.arrival < e.arrival
    behind held (entry 1 .order (write 0x4040#40)) ∧ ¬behind held (entry 1 .order (read header)) ∧
    (¬behind (live .openState) { entry 1 .order (write 0x4040#40) with domain := none }) ∧
    (∀ st ∈ [DomState.off, .formatting, .recovering, .openState, .committing, .rolling, .broken],
      ((live st).dom 1).state = st ∧ (entry 1 .order (write 0x4040#40)).domain = some 1 ∧
        ¬behind (live st) (entry 1 .order (write 0x4040#40)) ∧ ¬behind (live st) (entry 1 .order (read header))) ∧
    (∀ p ∈ [Pending.commit, .rollback, .close], ∀ mark ∈ [true, false], ∀ carried ∈ [true, false],
      let s := (live .draining).setDom 1 { domain .draining with pending := p, brokenMark := mark }
      let e := { entry 1 .capture (write 0x4040#40) with carried := carried }
      (s.dom 1).state = .draining ∧ (s.dom 1).pending = p ∧ (s.dom 1).brokenMark = mark ∧ e.carried = carried ∧
        e.domain = some 1 ∧ e.req.kind = .write ∧ ¬behind s e) :=
  ⟨by decide +kernel, by decide +kernel, by decide +kernel, by decide +kernel, by decide +kernel⟩

/-- A filter set of four valid entries of domain 1 and distinct lines of its set, with the parity bits given. -/
def fourWays (parity : Fin 4 → Bool) (valid : Fin 4 → Bool) (pointer : Fin 4) : FilterSet :=
  { ways := Vector.ofFn fun w => { valid := valid w, domain := 1, line := BitVec.ofNat 34 (0x40200 * w.val + 0x100), parity := parity w },
    pointer := pointer }

/-- Line 0x100 has a live entry of domain 1; it is under capture; and it is uncovered with the journal one place short, just
fitting, and with every slot in use. -/
theorem witness_CapturePathDecides :
    let lines := fun (s : State) => (touchedLines (write 0x4000#40)).filter fun l => s.filterHit 1 l == false
    -- whether the one uncovered line is under capture
    let under := fun (s : State) => ∃ k, (s.slot k).state ≠ .free ∧ (s.slot k).line = 0x100#34
    let free := fun (s : State) => (allSlots.filter fun k => decide ((s.slot k).state = .free)).length
    lines ((live .openState).setFilterSet (setIndex 0x100#34) (fourWays (fun _ => true) (fun _ => true) 0)) = [] ∧
    (lines (capturing .openState .readOld) = [0x100#34] ∧ under (capturing .openState .readOld)) ∧
    (∀ p ∈ [Policy.stall, .refuse, .breaks],
      let s := (live .openState).setDom 1 { domain .openState with config := { config with policy := p }, occupancy := 16 }
      lines s = [0x100#34] ∧ ¬under s ∧ (s.dom 1).config.policy = p ∧
        (s.dom 1).config.capacity < (s.dom 1).occupancy + (lines s).length) ∧
    (let s := (live .openState).setDom 1 { domain .openState with occupancy := 15 }
     lines s = [0x100#34] ∧ ¬under s ∧ (s.dom 1).occupancy + (lines s).length ≤ (s.dom 1).config.capacity ∧
      (lines s).length ≤ free s) ∧
    (let s := { live .openState with slots := Vector.replicate 8 { slot .readOld with line := 0x101#34 } }
     lines s = [0x100#34] ∧ ¬under s ∧ (s.dom 1).occupancy + (lines s).length ≤ (s.dom 1).config.capacity ∧
      free s < (lines s).length) :=
  ⟨by decide +kernel, by decide +kernel, by decide +kernel, by decide +kernel, by decide +kernel⟩

theorem witness_DecisionsCarriedOut :
    (entry 0 .space (write 0x4000#40)).domain = some 1 ∧ 0 < 1 ∧ (entry 0 .space (write 0x4000#40)).region = some 2 ∧
      (firstEntry 0 (write 0x9000#40) none .pass none).domain = none := by decide

/-- Seven lines for the seven FREE slots, reaching the high mark. -/
theorem witness_AllocationPairsLowestFirst :
    let s := (capturing .openState .readOld).setDom 1 { domain .openState with slotsInUse := 1, occupancy := 5 }
    let free := allSlots.filter fun k => decide ((s.slot k).state = .free)
    let lines := [1#34, 2#34, 3#34, 4#34, 5#34, 6#34, 7#34]
    lines.length ≤ free.length ∧ free[6]? = some 7 ∧ lines[6]? = some 7#34 ∧ free[2]? = some 3 ∧
      (2 : SlotId) ∉ free.take lines.length ∧ (s.dom 1).pressure = false ∧
      (s.dom 1).config.highMark ≤ (s.dom 1).occupancy + lines.length ∧ (0 : DomId) ≠ 1 ∧
      -- one line fewer stays below the mark
      (s.dom 1).occupancy + lines.tail.length < (s.dom 1).config.highMark := by decide +kernel

/-- Domain 1 in OPEN with its journal full under BREAK, and three writes held: one that waits SPACE, one of its ID that waits
ORDER, and one of another ID that waits SLOT. -/
def breaking : State :=
  { (live .openState).setDom 1 { domain .openState with config := { config with policy := .breaks }, occupancy := 16 } with
    hold := [entry 0 .space (write 0x4000#40), entry 1 .order (write 0x4040#40),
      entry 2 .slot { write 0x4080#40 with header := { (write 0x4080#40).header with id := 9#4 } }]
    host := { HostPort.reset with nextArrival := 3 } }

/-- R91: the first entry breaks its domain; its ORDER waiter and R60's entry join the list, and all three leave. -/
theorem test_work_list :
    breaking.decision (entry 0 .space (write 0x4000#40)) = .breakForward ∧
      (breaking.reevaluate [0]).mem.writes.forwarded.map Forwarded.arrival = [0, 1, 2] ∧
      (breaking.reevaluate [0]).hold = [] := by decide +kernel

/-- The bound itself, and a hold queue in acceptance order with an entry of the list in it. -/
theorem witness_WorkListRunsEmpty : (∃ n, workBound breaking.hold.length ≤ n) ∧ breaking.HoldOrdered ∧
    ∃ e ∈ breaking.hold, e.arrival ∈ [0] := by
  refine ⟨⟨_, Nat.le_refl _⟩, ?_⟩
  unfold State.HoldOrdered; decide +kernel

/-- Set 0x100 with the pair there, with an invalid way, with a stale way, and with four live ways of other lines. -/
theorem witness_InsertionChoosesWay :
    let s := fun f => (live .openState).setFilterSet 0x100 f
    let there := fun (f : FilterSet) (l : Line) (w : Fin 4) =>
      f.ways[w].valid = true ∧ f.ways[w].domain = 1 ∧ f.ways[w].line = l
    let live := fourWays (fun _ => true) (fun _ => true) 3
    let new : FilterEntry := { valid := true, domain := 1, line := 0x140B00#34, parity := true }
    setIndex 0x40300#34 = 0x100 ∧ setIndex 0x140B00#34 = 0x100 ∧ (s live).filterSet 0x100 = live ∧ (s live).stale new = false ∧
    (there live 0x40300#34 1 ∧ ∀ v, v < 1 → ¬there live 0x40300#34 v) ∧
    (let f := fourWays (fun _ => true) (fun w => decide (w.val < 2)) 0
     (∀ w, ¬there f 0x140B00#34 w) ∧ f.ways[(2 : Fin 4)].valid = false ∧ ∀ v : Fin 4, v < 2 → f.ways[v].valid = true) ∧
    (let f := fourWays (fun w => decide (w.val < 2)) (fun _ => true) 0
     (∀ w, ¬there f 0x140B00#34 w) ∧ (∀ w : Fin 4, f.ways[w].valid = true) ∧ (s f).stale f.ways[(2 : Fin 4)] = true ∧
      ∀ v : Fin 4, v < 2 → (s f).stale f.ways[v] = false) ∧
    ((∀ w, ¬there live 0x140B00#34 w) ∧ (∀ w : Fin 4, live.ways[w].valid = true) ∧
      ∀ w : Fin 4, (s live).stale live.ways[w] = false) := by decide +kernel

/-- One below the half point with the enable 1, which an increment reaches, and with the enable 0, in each mode. -/
theorem witness_CountersWrapSaturateAndHalf :
    (∀ m ∈ [CounterMode.wrap, .saturate], ∀ enable ∈ [true, false],
      let x : Domain := { domain .openState with
        config := { config with counterMode := m, halfEnable := enable }, counters := Vector.replicate 12 0x7FFFFFFF#32 }
      x.config.counterMode = m ∧ x.config.halfEnable = enable ∧ x.counter .held = 0x7FFFFFFF#32 ∧
        incremented m 0x7FFFFFFF#32 1 = 0x80000000#32) ∧
    (0x7FFFFFFF#32).toNat < 2 ^ 31 ∧ 2 ^ 31 ≤ (0x80000000#32).toNat := ⟨by decide +kernel, by decide⟩

theorem witness_RecordReadsBackValid :
    (let k : Slot := { slot .writeRecord with buffer := List.replicate 64 9#8, position := 65535 }
     k.buffer.length = 64 ∧ k.position < 65536) ∧ 2 ^ 32 - 1 < 2 ^ 32 := by decide

/-- A due entry with and without a domain behind one that is not due, and none due. -/
theorem witness_TicksAndHoldTimeouts :
    let due := fun d : Option DomId => { entry 1 .space (write 0x4000#40) with domain := d, deadline := some 0#32 }
    let s := fun d : Option DomId => { live .openState with
      hold := [entry 0 .drain (write 0x4000#40)] ++ due d :: [entry 2 .order (write 0x4040#40)]
      host := { HostPort.reset with nextArrival := 3 } }
    (∀ d ∈ [none, some (1 : DomId)], (s d).inReset = false ∧ (s d).timeoutsLeft = true ∧ (s d).HoldOrdered ∧
      (∀ x ∈ [entry 0 .drain (write 0x4000#40)], x.deadline ≠ some (s d).time.tick) ∧
      (due d).deadline = some (s d).time.tick ∧ (due d).domain = d) ∧
    (held.inReset = false ∧ held.timeoutsLeft = false ∧ ∀ e ∈ held.hold, e.deadline ≠ some held.time.tick) := by
  unfold State.HoldOrdered; decide +kernel

/-- Each kind of own access, due: waiting in its list, or issued. -/
theorem witness_MemTimeouts :
    let due := fun (s : State) (dir : Dir) (p : OwnAccess → Bool) =>
      (s.findOwn dir fun x => p x && decide (x.deadline = some s.time.tick))
    ((capturing .openState .readOld).inReset = false ∧ ((capturing .openState .readOld).slot 2).state = .readOld ∧
      ((capturing .openState .readOld).slot 2).deadline = some (capturing .openState .readOld).time.tick) ∧
    (((capturing .openState .writeRecord).slot 2).state = .writeRecord ∧
      ((capturing .openState .writeRecord).slot 2).deadline = some (capturing .openState .writeRecord).time.tick) ∧
    (∀ use ∈ [AnchorUse.formatSlot1, .formatInvalidate, .commit, .rollback, .recover],
      due (anchoring .committing use) .write (isAnchorWriteOf 1) = some (access (.anchorWrite use) .write none)) ∧
    (let w := { walk .rollback .walk with readOut := some 3 }
     let s := (walking w).handOver (access .recordRead .read (some 3))
     due s .read isWalkRead = some (access .recordRead .read (some 3)) ∧ s.replay.walk = some w ∧
      (access .recordRead .read (some 3)).position = some 3) ∧
    (let w := walk .recover (.anchorRead .slot0)
     let s := (walking w).handOver (access (.anchorRead false) .read none)
     due s .read isWalkRead = some (access (.anchorRead false) .read none) ∧ s.replay.walk = some w ∧
      (access (.anchorRead false) .read none).owner ≠ .recordRead) ∧
    (let w := { walk .rollback .walk with writeOut := some 3 }
     let s := issued (walking w) .write (access .replayWrite .write (some 3)) false
     due s .write (fun x => decide (x.owner = .replayWrite)) = some (access .replayWrite .write (some 3)) ∧
      s.replay.walk = some w) ∧
    (let w := { walk .rollback .walk with buffer := some buffered }
     (walking w).replay.walk = some w ∧ w.buffer = some buffered ∧ buffered.deadline = some (walking w).time.tick) :=
  ⟨by decide +kernel, by decide +kernel, by decide +kernel, by decide +kernel, by decide +kernel, by decide +kernel,
    rfl, rfl, rfl⟩

/-! ### Lines with their check words, worked out outside the model from R175 to R177 -/

/-- The anchor line of domain 1, an epoch and capacity 16, with a check word (R176). -/
def anchorBytes (epoch word : Nat) : List Byte :=
  [0x71#8, 0x0A#8, 0x9E#8, 0x3C#8, 1#8, 0#8, 0#8, 0#8] ++ leBytes 4 epoch ++ [16#8, 0#8, 0#8, 0#8] ++
    List.replicate 44 0#8 ++ leBytes 4 word

/-- The record of domain 1, region 2, position 3 and epoch 5, of line address 0x4000 whose bytes are all 9, with a check
word (R175). -/
def recordBytes (word : Nat) : List Byte :=
  [0xC3#8, 0x52#8, 0x17#8, 0x6A#8, 1#8, 2#8, 3#8, 0#8] ++ [5#8, 0#8, 0#8, 0#8, 0#8, 0#8, 0#8, 0#8] ++
    [0#8, 0x40#8, 0#8, 0#8, 0#8] ++ List.replicate 39 0#8 ++ leBytes 4 word ++ List.replicate 64 9#8

/-- Blocks of sixteen bytes, with the CRC-32 register after each. -/
def blocks (bs : List Byte) (regs : List (BitVec 32)) : List (List Byte × BitVec 32) :=
  ((List.range regs.length).map fun i => (bs.drop (16 * i)).take 16).zip regs

/-- Whether each block takes the register from the one stated before it to its own. -/
def chained : BitVec 32 → List (List Byte × BitVec 32) → Bool
  | _, [] => true
  | r, (b, r') :: ps => decide (b.foldl crc32Byte r = r') && chained r' ps

theorem chained_fold (ps : List (List Byte × BitVec 32)) : ∀ r, chained r ps = true →
    (ps.flatMap (·.1)).foldl crc32Byte r = (ps.getLast?.map (·.2)).getD r := by
  induction ps with
  | nil => intro r _; rfl
  | cons p ps ih =>
    intro r h
    simp only [chained, Bool.and_eq_true, decide_eq_true_eq] at h
    rw [List.flatMap_cons, List.foldl_append, h.1, ih _ h.2, List.getLast?_cons]
    cases ps.getLast? <;> rfl

theorem crc32_of_blocks {bs : List Byte} (regs : List (BitVec 32)) (whole : (blocks bs regs).flatMap (·.1) = bs)
    (steps : chained 0xFFFFFFFF#32 (blocks bs regs) = true) :
    crc32 bs = ~~~(((blocks bs regs).getLast?.map (·.2)).getD 0xFFFFFFFF#32) := by
  rw [← chained_fold _ _ steps, whole, crc32]

/-- R177: the CRC-32 of the anchor lines of epochs 6 and 7 and of the record, each with its check word as zero. -/
theorem test_crc32_lines : crc32 (anchorBytes 6 0) = 0xD7FFBAF6#32 ∧ crc32 (anchorBytes 7 0) = 0x49B5670E#32 ∧
    crc32 (recordBytes 0) = 0xB1333BFE#32 := by
  refine ⟨?_, ?_, ?_⟩
  · rw [crc32_of_blocks [0x60F944C1#32, 0xC3BB6428#32, 0x1E1B9DFF#32, 0x28004509#32] (by decide +kernel) (by decide +kernel)]
    decide +kernel
  · rw [crc32_of_blocks [0x29C539E6#32, 0x79F4A6A6#32, 0xC3DB88D4#32, 0xB64A98F1#32] (by decide +kernel) (by decide +kernel)]
    decide +kernel
  · rw [crc32_of_blocks [0x4280F707#32, 0x9657EB9B#32, 0xDCFF0EBB#32, 0x03BA8AFA#32, 0x6A7C3A79#32, 0xDCCF6037#32,
        0x0BEF22F0#32, 0x4ECCC401#32] (by decide +kernel) (by decide +kernel)]
    decide +kernel

theorem checkWord_of {bs zeroed : List Byte} {w : BitVec 32} (h : withCheckWord bs 0 = zeroed) (crc : crc32 zeroed = w) :
    checkWord bs = w := by rw [checkWord, h, crc]

/-- R175, R176: the model writes these lines. -/
theorem test_layouts : anchorLine 1 6#32 16 = anchorBytes 6 0xD7FFBAF6 ∧
    recordOf { slot .writeRecord with region := 2, buffer := List.replicate 64 9#8 } = recordBytes 0xB1333BFE := by
  refine ⟨?_, ?_⟩
  · rw [anchorLine, sealed, checkWord_of (zeroed := anchorBytes 6 0) (by decide +kernel) test_crc32_lines.1]
    decide +kernel
  · rw [recordOf, sealed, checkWord_of (zeroed := recordBytes 0) (by decide +kernel) test_crc32_lines.2.2]
    decide +kernel

/-- R122, R176: they are valid for domain 1, and the record for epoch 5. -/
theorem test_valid_lines : anchorValid (anchorBytes 6 0xD7FFBAF6) 1 = true ∧
    anchorValid (anchorBytes 7 0x49B5670E) 1 = true ∧ recordValid (recordBytes 0xB1333BFE) 1 5#32 = true := by
  refine ⟨?_, ?_, ?_⟩
  · rw [anchorValid, checkWordCorrect, checkWord_of (zeroed := anchorBytes 6 0) (by decide +kernel) test_crc32_lines.1]
    decide +kernel
  · rw [anchorValid, checkWordCorrect, checkWord_of (zeroed := anchorBytes 7 0) (by decide +kernel) test_crc32_lines.2.1]
    decide +kernel
  · rw [recordValid, checkWordCorrect, checkWord_of (zeroed := recordBytes 0) (by decide +kernel) test_crc32_lines.2.2]
    decide +kernel

/-! ### Witnesses: domain operations and accesses -/

/-- Refused domain numbers and codes, busy states, disallowed operations, the last epoch, and each failing overlap check. -/
theorem witness_DomainOpsDecidedInOrder :
    (∀ opcode args, (live .openState).Receives opcode args ∧ (live .off).Receives opcode args) ∧
    (4 ≤ (4#8).toNat ∧ ((0#8 : Byte) = 0 ∧ 5 < (6#8).toNat) ∧ (1#8).toNat = (1 : DomId).val) ∧
    (∀ st ∈ [DomState.formatting, .recovering, .draining, .committing, .rolling, .off, .openState, .broken],
      (live st).inReset = false ∧ (live st).frame.state = .request ∧ ((live st).dom 1).state = st) ∧
    (let s := (live .openState).setDom 1 { domain .openState with epoch := 0xFFFFFFFF#32 }
     (s.dom 1).epoch = BitVec.allOnes 32) ∧
    (let s := (live .off).setDom 1 (Domain.reset)
     (s.dom 1).state = .off ∧ (s.dom 1).config.capacity = 0) ∧
    -- an area of the domain meets a JOURNAL region
    (let s := (live .off).setDom 1 { domain .off with config := { config with journalBase := 0x7000#40 } }
     s.regions[2].valid = true ∧ s.regions[2].mode = .journal ∧ regionMeetsAreas s.regions[2] (s.dom 1).config = true) ∧
    -- a JOURNAL region of the domain meets an area of another
    (let s := (live .off).setDom 0 { domain .openState with config := { config with journalBase := 0x7000#40 } }
     s.regions[2].domain = 1 ∧ (s.dom 0).state ≠ .off ∧ regionMeetsAreas s.regions[2] (s.dom 0).config = true) ∧
    -- areas of two domains overlap
    (let s := (live .off).setDom 0 (domain .broken)
     (s.dom 0).state ≠ .off ∧ areasOverlap (s.dom 1).config (s.dom 0).config = true) :=
  ⟨fun opcode args => ⟨(asks_live _).receives opcode args, (asks_live _).receives opcode args⟩, by decide, by decide +kernel⟩

/-- The replay engine idle, and with a walk; a held write of the domain's journal. -/
theorem witness_FormatAndRecoverLeaveOff :
    (∀ opcode args, (live .off).Receives opcode args) ∧ (1#8).toNat = (1 : DomId).val ∧
    ((live .off).dom 1).state = .off ∧ ((live .off).dom 1).config.capacity ≠ 0 ∧ (live .off).overlapPasses 1 = true ∧
    ((live .off).replay.walk = none ∧ (live .off).replay.waiting = []) ∧
    (let s := (live .off).setWalk (some { walk .rollback .walk with domain := 0 })
     Asks s ∧ (s.dom 1).state = .off ∧ (s.dom 1).config.capacity ≠ 0 ∧ s.overlapPasses 1 = true ∧
      s.replay.walk ≠ none) ∧
    ((entry 0 .order (write 0x100000#40)).req.kind = .write ∧
      meetsAreas (entry 0 .order (write 0x100000#40)).req.header ((live .off).dom 1).config = true) := by
  refine ⟨(asks_live _).receives, by decide, by decide +kernel, by decide +kernel, by decide +kernel, ⟨rfl, rfl⟩, ?_,
    by decide +kernel⟩
  unfold Asks; decide +kernel

/-- Slots in use in OPEN and in BROKEN; and a drain with each pending operation, each mark, slots in use or none, and
occupancy 0 or more. -/
theorem witness_DrainsBeginAndEnd :
    (∀ st ∈ [DomState.openState, .broken], let s := capturing st .readOld
      Asks s ∧ (1#8).toNat = (1 : DomId).val ∧ (s.dom 1).slotsInUse ≠ 0 ∧ (s.dom 1).state = st ∧
        (s.dom 1).epoch ≠ BitVec.allOnes 32) ∧
    (∀ p ∈ [Pending.commit, .rollback, .close], ∀ mark ∈ [true, false], ∀ n ∈ [0, 1], ∀ occupancy ∈ [0, 4],
      let s := (live .draining).setDom 1
        { domain .draining with pending := p, brokenMark := mark, slotsInUse := n, occupancy := occupancy }
      (s.dom 1).state = .draining ∧ (s.dom 1).pending = p ∧ (s.dom 1).brokenMark = mark ∧ (s.dom 1).slotsInUse = n ∧
        (s.dom 1).occupancy = occupancy) ∧
    ((live .openState).dom 1).state ≠ .draining := by
  unfold Asks; decide +kernel

/-- A sweep of domain 1 is pending. -/
def swept (s : State) : State := { s with sweep := { queue := [1], running := some { domain := 0, next := 0, left := 1 } } }

/-- Nothing holds the anchor write back, a pending sweep does, or an earlier anchor write does. -/
theorem witness_CommitEntersCommitting :
    (∀ st ∈ [DomState.openState, .broken], Asks (live st) ∧ (1#8).toNat = (1 : DomId).val ∧
      ((live st).dom 1).slotsInUse = 0 ∧ ((live st).dom 1).state = st ∧ ((live st).dom 1).epoch ≠ BitVec.allOnes 32 ∧
      (live st).sweepPending 1 = false ∧ (live st).anchorIdHeld 1 = false) ∧
    Asks (swept (live .openState)) ∧ ((swept (live .openState)).dom 1).slotsInUse = 0 ∧
    (swept (live .openState)).sweepPending 1 = true ∧
    (issued (live .openState) .write (access (.anchorWrite .commit) .write none) true).anchorIdHeld 1 = true := by
  unfold Asks; decide +kernel

/-- A marked domain, an empty journal with and without a sweep, and a journal to walk with the engine idle and in use. -/
theorem witness_RollbackEntersRolling :
    let with_ := fun (occupancy : Nat) (mark : Bool) =>
      (live .openState).setDom 1 { domain .openState with occupancy := occupancy, brokenMark := mark }
    (∀ n ∈ [0, 1, 2, 16], ∀ m ∈ [true, false], Asks (with_ n m) ∧ (1#8).toNat = (1 : DomId).val ∧
      ((with_ n m).dom 1).slotsInUse = 0 ∧ ((with_ n m).dom 1).state = .openState ∧
      ((with_ n m).dom 1).epoch ≠ BitVec.allOnes 32 ∧ ((with_ n m).dom 1).brokenMark = m ∧
      ((with_ n m).dom 1).occupancy = n ∧ (with_ n m).replay.walk = none ∧ (with_ n m).replay.waiting = [] ∧
      (with_ n m).sweepPending 1 = false ∧ (with_ n m).anchorIdHeld 1 = false) ∧
    (swept (with_ 0 false)).sweepPending 1 = true ∧
    ((with_ 2 false).setWalk (some (walk .rollback .walk))).replay.walk ≠ none := by
  unfold Asks; decide +kernel

/-- Domain 1 OPEN with a held write. -/
theorem witness_CloseEntersOff :
    Asks held ∧ (1#8).toNat = (1 : DomId).val ∧ (held.dom 1).slotsInUse = 0 ∧ (held.dom 1).state = .openState ∧
    held.HoldOrdered ∧ (∃ e ∈ held.hold, e.domain = some 1 ∧ e.req.kind = .write) ∧ ((live .broken).dom 1).state = .broken := by
  have ordered : held.HoldOrdered := by unfold State.HoldOrdered; decide +kernel
  refine ⟨?_, by decide, by decide +kernel, by decide +kernel, ordered,
    ⟨entry 0 .space (write 0x4000#40), by simp [held], rfl, rfl⟩, by decide +kernel⟩
  unfold Asks; decide +kernel

/-- An own write of domain 1 to an address has timed out. -/
def late (s : State) (owner : Owner) (a : Addr) : State := issued s .write { access owner .write none with addr := a } true

/-- A forwarded write is outstanding. -/
def outstanding (s : State) (a : Addr) : State :=
  s.setSide .write { s.side .write with forwarded := [{ arrival := 0, req := write a }] }

/-- Domain 1 in a state of an operation whose anchor write is held. -/
def holding (st : DomState) : State := (live st).setDom 1 { domain st with anchor := .held 6#32 .ok }

theorem witness_HeldAccessesHandedOver :
    (let s := capturing .openState .readOld
     s.inReset = false ∧ (s.slot 2).state = .readOld ∧ (s.slot 2).readIssued = false ∧
      s.lineWriteOut (s.slot 2).line = false ∧ s.lateReplayTo (s.slot 2).line = false ∧
      (outstanding s 0x4038#40).lineWriteOut (s.slot 2).line = true ∧
      (late s .replayWrite 0x4000#40).lateReplayTo (s.slot 2).line = true) ∧
    (let s := capturing .openState .writeRecord
     (s.slot 2).state = .writeRecord ∧ (s.slot 2).writeHanded = false ∧ s.lateRecordTo 0x100180#40 = false ∧
      (late s (.recordWrite 5) 0x100180#40).lateRecordTo
        (BitVec.ofNat 40 ((s.dom (s.slot 2).domain).config.journalBase.toNat + (s.slot 2).position * 128)) = true) ∧
    (let s := holding .formatting
     (s.dom 1).anchor = .held 6#32 .ok ∧ (s.dom 1).state = .formatting ∧ s.sweepPending 1 = false ∧
      s.areaWriteOut 1 = false ∧ (swept s).sweepPending 1 = true ∧ (outstanding s 0x1007F8#40).areaWriteOut 1 = true) ∧
    (∀ st ∈ [DomState.committing, .rolling, .recovering], let s := holding st
     (s.dom 1).anchor = .held 6#32 .ok ∧ (s.dom 1).state = st ∧ s.sweepPending 1 = false ∧ s.anchorIdHeld 1 = false ∧
      (swept s).sweepPending 1 = true ∧ (late s (.anchorWrite .commit) 0x110000#40).anchorIdHeld 1 = true) ∧
    (let s := walking (walk .recover (.anchorRead .waiting))
     s.replay.walk = some (walk .recover (.anchorRead .waiting)) ∧ s.anchorIdHeld 1 = false ∧ s.areaWriteOut 1 = false ∧
      (late s (.anchorWrite .formatInvalidate) 0x110000#40).anchorIdHeld 1 = true ∧
      (outstanding s 0x110040#40).areaWriteOut 1 = true) ∧
    (let b : Buffered := { buffered with record := recordBytes 0xB1333BFE }
     let w := { walk .rollback .walk with buffer := some b }
     let s := walking w
     s.replay.walk = some w ∧ w.buffer = some b ∧ s.lineWriteOut (recordLine b.record) = false ∧ w.writeOut = none ∧
      s.replayIdHeld = false ∧ (outstanding s 0x4000#40).lineWriteOut (recordLine b.record) = true ∧
      (late s .replayWrite 0x8000#40).replayIdHeld = true) ∧
    (let w := { walk .rollback .walk with buffer := some buffered, writeOut := some 4 }
     (walking w).replay.walk = some w ∧ w.buffer = some buffered ∧ w.writeOut ≠ none) :=
  ⟨by decide +kernel, by decide +kernel, by decide +kernel, by decide +kernel, by decide +kernel,
    ⟨rfl, rfl, by decide +kernel⟩, ⟨rfl, rfl, by decide +kernel⟩⟩

/-- The anchor write of each operation is pending with an epoch to open. -/
theorem witness_OkayAnchorWritesOpenEpochs :
    ∀ use ∈ [AnchorUse.formatSlot1, .formatInvalidate, .commit, .rollback, .recover],
      let s := anchoring .rolling use
      s.inReset = false ∧ s.pendingOwn .write 16#5 = some (access (.anchorWrite use) .write none) ∧
        (access (.anchorWrite use) .write none).owner = .anchorWrite use ∧ (s.dom 1).anchor = .sent 6#32 .ok := by
  decide +kernel

theorem witness_FailedAnchorWritesEndOperations :
    Code.decerr ≠ .okay ∧ ∀ use ∈ [AnchorUse.formatSlot1, .formatInvalidate, .commit, .rollback, .recover],
      let s := anchoring .committing use
      s.inReset = false ∧ s.pendingOwn .write 16#5 = some (access (.anchorWrite use) .write none) := by
  decide +kernel

/-- The state in which the answer to one of RECOVER's anchor reads is awaited. -/
def recovering (p : AnchorReads) (slot1 : Bool) : State :=
  issued (walking (walk .recover (.anchorRead p))) .read (access (.anchorRead slot1) .read none) false

/-- Eight OKAY beats that carry the anchor line of epoch 7. -/
def anchorBeats : Vector Beat 8 := Vector.ofFn fun i =>
  { code := .okay,
    data := #v[0x000000013C9E0A71#64, 0x0000001000000007#64, 0#64, 0#64, 0#64, 0#64, 0#64, 0x49B5670E00000000#64][i] }

/-- Every outcome of the two reads, and lines to choose between: none valid, one valid, the higher epoch in either slot, and
equal epochs, even and odd. -/
theorem witness_RecoverReadsAndSelects :
    (∀ x ∈ [(AnchorReads.slot0, false), (.slot1 none, true), (.slot1 (some (anchorBytes 6 0xD7FFBAF6)), true)],
      let s := recovering x.1 x.2
      s.inReset = false ∧ s.pendingOwn .read 16#5 = some (access (.anchorRead x.2) .read none) ∧
        s.replay.walk = some (walk .recover (.anchorRead x.1)) ∧ (s.dom 1).config.capacity ≠ 0) ∧
    (∀ b ∈ anchorBeats.toList, b.code = .okay) ∧ (¬∀ b ∈ badBeats.toList, b.code = .okay) ∧
    (anchorBeats.toList.flatMap fun b => laneBytes b.data) = anchorBytes 7 0x49B5670E ∧
    selectAnchor 1 16 (anchorBytes 6 0xD7FFBAF6) (anchorBytes 7 0x49B5670E) = .ok (anchorBytes 7 0x49B5670E) ∧
    selectAnchor 1 17 (anchorBytes 6 0xD7FFBAF6) (anchorBytes 7 0x49B5670E) = .error .failed ∧
    (anchorValid (anchorBytes 6 0xD7FFBAF6) 1 = true ∧ anchorValid (anchorBytes 7 0x49B5670E) 1 = true ∧
      anchorValid invalidLine 1 ≠ true) ∧
    ((anchorEpoch (anchorBytes 6 0xD7FFBAF6)).toNat = 6 ∧ (anchorEpoch (anchorBytes 7 0x49B5670E)).toNat = 7) := by
  refine ⟨by decide +kernel, by decide +kernel, by decide +kernel, by decide +kernel, ?_, ?_,
    ⟨test_valid_lines.1, test_valid_lines.2.1, by decide +kernel⟩, by decide +kernel⟩
  · rw [selectAnchor, if_pos test_valid_lines.1, if_pos test_valid_lines.2.1]; decide +kernel
  · rw [selectAnchor, if_pos test_valid_lines.1, if_pos test_valid_lines.2.1]; decide +kernel

/-- A walk whose record read or replay write is out. -/
def replayingWalk (k : WalkKind) (dir : Dir) (owner : Owner) : State :=
  issued (walking { walk k .walk with readOut := some 3, writeOut := some 3 }) dir (access owner dir (some 3)) false

/-- Sixteen OKAY beats that carry the record. -/
def recordBeats : Vector Beat 16 := Vector.ofFn fun i =>
  { code := .okay,
    data := #v[0x000302016A1752C3#64, 5#64, 0x4000#64, 0#64, 0#64, 0#64, 0#64, 0xB1333BFE00000000#64][i.val]?.getD
      0x0909090909090909#64 }

theorem witness_ReplayResponsesJudged :
    (∀ k ∈ [WalkKind.rollback, .recover], let s := replayingWalk k .read .recordRead
      s.inReset = false ∧ s.replay.walk = some { walk k .walk with readOut := some 3, writeOut := some 3 } ∧
      s.pendingOwn .read 16#5 = some (access .recordRead .read (some 3)) ∧
      (access .recordRead .read (some 3)).position = some 3 ∧
      s.replayable (walk k .walk) (List.replicate 128 0#8) = false) ∧
    ((∀ b ∈ recordBeats.toList, b.code = .okay) ∧
      (recordBeats.toList.flatMap fun b => laneBytes b.data) = recordBytes 0xB1333BFE ∧
      (replayingWalk .rollback .read .recordRead).replayable (walk .rollback .walk) (recordBytes 0xB1333BFE) = true) ∧
    (∃ b ∈ (recordBeats.set 15 { code := .error, data := 0#64 }).toList, b.code ≠ .okay) ∧
    (let s := replayingWalk .rollback .write .replayWrite
     s.inReset = false ∧ s.pendingOwn .write 16#5 = some (access .replayWrite .write (some 3)) ∧ Code.error ≠ .okay) := by
  refine ⟨by decide +kernel, ⟨by decide +kernel, by decide +kernel, ?_⟩, ?_, by decide +kernel⟩
  · rw [State.replayable, show (walk .rollback .walk).domain = 1 from rfl, show (walk .rollback .walk).epoch = 5#32 from rfl,
      test_valid_lines.2.2]
    decide +kernel
  · exact ⟨{ code := .error, data := 0#64 }, by decide +kernel, by decide⟩

/-! ### Witnesses: walks, captures, sweeps and the laws -/

/-- A walk with a read to issue (at the bottom of the journal and above it), one that waits, and one that is done, of each
kind, failed, with skips, and from the last epoch; and a wait list. -/
theorem witness_WalksAdvanceAndEnd :
    let w := walk .rollback .walk
    (∀ k ∈ [0, 1], let v := { w with cursor := some k }
      (walking v).replay.walk = some v ∧ v.phase = .walk ∧ v.buffer = none ∧ v.readOut = none ∧ v.cursor = some k) ∧
    (∀ v ∈ [{ w with readOut := some 3 }, { w with writeOut := some 3 }],
      (walking v).replay.walk = some v ∧ v.phase = .walk ∧ v.buffer = none ∧
        (v.readOut ≠ none ∨ (v.writeOut ≠ none ∧ v.cursor = none))) ∧
    (∀ kind ∈ [WalkKind.rollback, .recover], ∀ failures ∈ [0, 1], ∀ skips ∈ [0, 1], ∀ last ∈ [true, false],
      let v := { walk kind .walk with failures := failures, skips := skips, epoch := if last then BitVec.allOnes 32 else 5#32 }
      (walking v).replay.walk = some v ∧ v.phase = .walk ∧ v.buffer = none ∧ v.readOut = none ∧ v.cursor = none ∧
        v.writeOut = none) ∧
    -- a buffered replay write that may go, with a read ahead and without, and one that may not
    (∀ cursor out : Option Nat,
      let v := { w with buffer := some buffered, cursor := cursor, writeOut := out }
      (walking v).replay.walk = some v ∧ v.phase = .walk ∧ v.buffer = some buffered ∧ v.readOut = none ∧
        v.cursor = cursor ∧ v.writeOut = out ∧ (walking v).lineWriteOut (recordLine buffered.record) = false ∧
        (walking v).replayIdHeld = false) ∧
    (let s := { walking w with replay := { walk := some w, waiting := [0, 2] } }
     s.replay.walk = some w ∧ s.replay.waiting = 0 :: [2]) :=
  ⟨by decide +kernel, by decide +kernel, by decide +kernel, fun _ _ => ⟨rfl, rfl, rfl, rfl, rfl, rfl, rfl, rfl⟩,
    by decide +kernel⟩

theorem witness_OldLineReadAnswered :
    let s := issued (capturing .openState .readOld) .read (access (.captureRead 2) .read (some 3)) false
    s.inReset = false ∧ s.pendingOwn .read 16#5 = some (access (.captureRead 2) .read (some 3)) ∧
      (s.slot 2).state = .readOld ∧ (∀ b ∈ goodBeats.toList, b.code = .okay) ∧ s.lateRecordTo 0x100180#40 = false ∧
      (late s (.recordWrite 5) 0x100180#40).lateRecordTo 0x100180#40 = true ∧
      BitVec.ofNat 40 ((s.dom (s.slot 2).domain).config.journalBase.toNat + (s.slot 2).position * 128) = 0x100180#40 := by
  decide +kernel

/-- The record write of slot 2 is pending, with the domain in a state and a broken mark. -/
def writing (st : DomState) (mark : Bool) : State :=
  issued ((capturing st .writeRecord).updDom 1 fun x => { x with brokenMark := mark }) .write
    (access (.recordWrite 2) .write (some 3)) false

theorem witness_RecordBecomesDurable :
    (∀ x ∈ [(DomState.openState, false), (.draining, false), (.draining, true), (.broken, false)],
      let s := writing x.1 x.2
      s.inReset = false ∧ s.pendingOwn .write 16#5 = some (access (.recordWrite 2) .write (some 3)) ∧
        (s.slot 2).state = .writeRecord ∧ (s.dom 1).state = x.1 ∧ (s.dom 1).brokenMark = x.2) ∧
    ((DomState.openState = .openState) ∧ (DomState.broken ≠ .openState ∧ DomState.broken ≠ .draining)) := by
  decide +kernel

theorem witness_CaptureFailuresBreak :
    (let s := issued (capturing .openState .readOld) .read (access (.captureRead 2) .read (some 3)) false
     s.inReset = false ∧ s.pendingOwn .read 16#5 = some (access (.captureRead 2) .read (some 3)) ∧
      (s.slot 2).state = .readOld) ∧
    (∃ b ∈ badBeats.toList, b.code ≠ .okay) ∧
    (∀ x ∈ [(DomState.openState, false), (.draining, false), (.draining, true), (.broken, false)],
      let s := writing x.1 x.2
      s.inReset = false ∧ s.pendingOwn .write 16#5 = some (access (.recordWrite 2) .write (some 3)) ∧
        (s.slot 2).state = .writeRecord ∧ (s.dom (s.slot 2).domain).state = x.1 ∧ (s.dom 1).brokenMark = x.2 ∧
        Code.error ≠ .okay) :=
  ⟨by decide +kernel, ⟨{ code := .error, data := 0#64 }, by decide +kernel, by decide⟩, by decide +kernel⟩

/-- A sweep of domain 1 with a number of visits left, and a queue behind it. -/
def sweeping (next : Fin 512) (left : Nat) (queue : List DomId) : State :=
  { live .openState with sweep := { queue := queue, running := some { domain := 1, next := next, left := left } } }

/-- With 512, 2 and 1 visits left. -/
theorem witness_SweepVisitJudgesOneSet :
    ∀ x ∈ [((0 : Fin 512), 512, ([] : List DomId)), (510, 2, [0]), (511, 1, []), (511, 1, [0, 3])],
      (sweeping x.1 x.2.1 x.2.2).inReset = false ∧
      (sweeping x.1 x.2.1 x.2.2).sweep = { queue := x.2.2, running := some { domain := 1, next := x.1, left := x.2.1 } } := by
  decide +kernel

/-- A full sweep of domain 1 ahead, with a stale and a live entry of it in set 0x100. -/
theorem witness_FullSweepClearsDomain :
    let s := (sweeping 0 512 [0]).setFilterSet 0x100 (fourWays (fun w => decide (w.val < 2)) (fun _ => true) 0)
    s.inReset = false ∧ s.sweep.running = some { domain := 1, next := 0, left := 512 } ∧ (1 : DomId) ∉ s.sweep.queue ∧
      s.stale (s.filterSet 0x100).ways[(2 : Fin 4)] = true ∧ s.stale (s.filterSet 0x100).ways[(1 : Fin 4)] = false := by
  decide +kernel

/-- The queue with a number of records and of records lost, and a command waiting. -/
def faulty (n lost : Nat) : State :=
  { live .openState with
    faults := { FaultBlock.reset with queue := List.replicate n record, lost := lost }, pending := [.shortFrame] }

/-- Seven records, and eight with 254 and 255 lost. -/
theorem witness_FaultQueueKeepsEight :
    (faulty 7 0).faults.queue.length < 8 ∧
    (∀ lost ∈ [254, 255], (faulty 8 lost).faults.queue.length = 8 ∧ (faulty 8 lost).faults.lost ≤ 255) ∧
    (faulty 8 255).FaultsBounded ∧ ∃ t, step (faulty 8 255) = .next t := by
  refine ⟨by decide +kernel, by decide +kernel, ?_, ⟨_, rfl⟩⟩
  unfold State.FaultsBounded; decide +kernel

/-- A hold entry that is due, and the time-out command that takes it: the state of the witnesses below. -/
def due : State :=
  { held with hold := [{ entry 0 .space (write 0x4000#40) with deadline := some 0#32 }], pending := [.holdTimeout] }

theorem steps_due : ∃ t, step due = .next t := ⟨_, rfl⟩

theorem witness_StepsKeepAcceptanceOrder :
    due.PlacesBounded ∧ due.HoldOrdered ∧ due.UnansweredOrdered ∧ due.UnansweredBounded ∧ (∃ t, step due = .next t) ∧
    -- at the bound, with a read address presented
    (let s := { crowded 0 1 63 with pending := [.readRequest header] }
     s.UnansweredBounded ∧ ∃ t, step s = .next t) := by
  refine ⟨?_, ?_, ?_, ?_, steps_due, ?_, ⟨_, rfl⟩⟩ <;>
    (simp only [State.PlacesBounded, State.HoldOrdered, State.UnansweredOrdered, State.UnansweredBounded]; decide +kernel)

/-- A capture's record write is about to be answered, with a filter entry of another line of its set and a sweep running: a
state that every law has something to say of. -/
def busy : State :=
  { (writing .openState false).setFilterSet 0x100
      (fourWays (fun w => decide (w.val < 3)) (fun w => decide (w.val ≠ 0)) 0) with
    sweep := { queue := [0], running := some { domain := 1, next := 511, left := 1 } }
    pending := [.recordWriteResponse 16#5 .okay] }

theorem steps_busy : ∃ t, step busy = .next t := ⟨_, rfl⟩

theorem witness_StepsKeepOccupancyBounded : busy.OccupancyBounded ∧ ∃ t, step busy = .next t := by
  refine ⟨?_, steps_busy⟩; unfold State.OccupancyBounded; decide +kernel

theorem witness_StepsKeepSlotLaws : busy.SlotsDistinct ∧ busy.SlotsCounted ∧ ∃ t, step busy = .next t := by
  refine ⟨?_, ?_, steps_busy⟩ <;>
    (simp only [State.SlotsDistinct, State.SlotsCounted, State.busySlots]; decide +kernel)

theorem witness_StepsKeepFilterUnique : busy.FilterUnique ∧ ∃ t, step busy = .next t := by
  refine ⟨?_, steps_busy⟩; unfold State.FilterUnique; decide +kernel

theorem witness_StepsKeepSettingsSweepsAndIds :
    busy.TimingLegal ∧ busy.RegionsLegal ∧ busy.ConfigsLegal ∧ busy.SweepsOrdered ∧ busy.IdsDistinct ∧
      ∃ t, step busy = .next t := by
  refine ⟨?_, ?_, ?_, ?_, ?_, steps_busy⟩
  · unfold State.TimingLegal; decide +kernel
  · unfold State.RegionsLegal; decide +kernel
  · unfold State.ConfigsLegal DomainConfig.Legal; decide +kernel
  · exact ⟨by decide +kernel, show (1 : DomId) ∉ [(0 : DomId)] ∧ 1 ≤ 1 ∧ 1 ≤ 512 by decide⟩
  · unfold State.IdsDistinct MemSide.IdsDistinct; decide +kernel

/-- A part in reset with CS_N high; and a TAKE_FAULT reply whose record stands at the head of the queue. -/
theorem witness_StepsKeepResetAndFrameLaws :
    (let s := { State.reset with pins := { State.reset.pins with rstN := false }, pending := [.rstNRelease] }
     s.inReset = true ∧ s.FrameQuiet ∧ s.pins.csN = true ∧ ∃ t, step s = .next t) ∧
    (let s := { replying (.fault record) with
       faults := { FaultBlock.reset with queue := [record, record] }, pending := [.replyComplete] }
     s.FrameQuiet ∧ s.LatchAtHead ∧ s.FrameCounted ∧ s.frame.state = .reply ∧ ∃ t, step s = .next t) ∧
    (let s := { partway with pins := { partway.pins with clocking := [some 0#8] } }
     s.FrameCounted ∧ s.frame.state = .request ∧ ∃ t, step s = .next t) := by
  refine ⟨⟨by decide +kernel, ?_, by decide +kernel, ⟨_, rfl⟩⟩, ⟨?_, ?_, ?_, by decide +kernel, ⟨_, rfl⟩⟩,
    ?_, rfl, ⟨_, rfl⟩⟩
  · unfold State.FrameQuiet; decide +kernel
  · unfold State.FrameQuiet; decide +kernel
  · intro _ r h; cases h; rfl
  · exact ⟨fun h => (nomatch h), fun _ => by decide +kernel⟩
  · exact ⟨fun _ => .inr ⟨3#8, [0#8], rfl, by decide +kernel, by decide +kernel⟩, fun h => nomatch h⟩

/-- The law of a part in reset is met there too. -/
theorem witness_StepsKeepResetAndFrameLaws_inReset :
    let s := { State.reset with pins := { State.reset.pins with rstN := false }, pending := [.rstNRelease] }
    s.inReset = true ∧ s.ResetHeld := ⟨rfl, fun _ => rfl⟩

end Sys2Proof.Tests
end

section
/-! PROOFS. The line filter (chapter 4): the facts about its set index, its judgement of entries and its sweep visits, and the
statements that they settle. -/

namespace Sys2Proof.Machine

/-! ### The set index, staleness and hits -/

theorem setIndex_val (l : Line) :
    (setIndex l).val = (l.toNat % 512) ^^^ (l.toNat / 512 % 512) ^^^ (l.toNat / 262144 % 512) := by
  have hslice (start : Nat) : (l.extractLsb' start 9).toNat = l.toNat / 2 ^ start % 512 := by
    rw [BitVec.extractLsb'_toNat, Nat.shiftRight_eq_div_pow]
  calc (setIndex l).val
      = (l.extractLsb' 0 9 ^^^ l.extractLsb' 9 9 ^^^ l.extractLsb' 18 9).toNat := rfl
    _ = _ := by simp only [BitVec.toNat_xor, hslice]; norm_num

@[simp] theorem mem_allWays (w : Fin 4) : w ∈ allWays := by
  fin_cases w <;> decide

theorem Domain.forgets_iff (x : Domain) : x.forgets = true ↔
    x.brokenMark = true ∨ x.state = .off ∨ x.state = .formatting ∨ x.state = .recovering ∨ x.state = .broken := by
  unfold Domain.forgets
  cases x.state <;> simp

theorem State.stale_iff (s : State) (e : FilterEntry) : s.stale e = true ↔
    e.parity ≠ epochParity (s.dom e.domain).epoch ∨ (s.dom e.domain).forgets = true := by
  simp [State.stale]

theorem State.live_iff (s : State) (e : FilterEntry) : s.live e = true ↔ e.valid = true ∧ s.stale e = false := by
  simp [State.live]

theorem State.filterHit_iff (s : State) (d : DomId) (l : Line) : s.filterHit d l = true ↔
    ∃ w : Fin 4, s.live (s.filterSet (setIndex l)).ways[w] = true ∧ (s.filterSet (setIndex l)).ways[w].domain = d ∧
      (s.filterSet (setIndex l)).ways[w].line = l := by
  simp [State.filterHit, and_assoc]

/-- Settles O30: the index by the value of each slice of the line number, staleness by the states that forget, and a hit by a
live entry of the pair among the four ways. -/
theorem filterIndexAndStaleness : Obligations.FilterIndexAndStaleness := by
  unfold Obligations.FilterIndexAndStaleness
  refine ⟨setIndex_val, fun s e => ?_, fun s d l => ?_⟩
  · rw [State.stale_iff, Domain.forgets_iff, epochParity]
  · rw [State.filterHit_iff]
    refine exists_congr fun w => ?_
    rw [State.live_iff]
    tauto

/-! ### Hand-overs and the sweep engine -/

theorem HandedFrom.foldl {α : Type} (f : State → α → State) (hf : ∀ s a, HandedFrom s (f s a)) (l : List α) :
    ∀ s, HandedFrom s (l.foldl f s) := by
  induction l with
  | nil => exact .refl
  | cons a l ih => exact fun s => (hf s a).trans (ih (f s a))

/-- What a happening hands over at its end writes no more than single hand-overs do (R5). -/
theorem State.releaseHeld_handed (s : State) : HandedFrom s s.releaseHeld := by
  have slots : ∀ t, HandedFrom t (allSlots.foldl (fun t k => (t.handCaptureRead k).handRecordWrite k) t) :=
    .foldl _ (fun t k => (t.handCaptureRead_handed k).trans (State.handRecordWrite_handed _ k)) _
  have domains : ∀ t, HandedFrom t (allDoms.foldl (fun t d => t.handAnchorWrite d) t) :=
    .foldl _ (fun t d => t.handAnchorWrite_handed d) _
  exact (slots s).trans ((domains _).trans ((State.handAnchorRead_handed _).trans
    ((State.handReplayWrite_handed _).trans (State.issueRecordRead_handed _))))

theorem State.releaseHeld_sweep (s : State) : s.releaseHeld.sweep = s.sweep := by
  obtain ⟨_, _, hsweep, _⟩ := s.releaseHeld_handed.conditions
  exact hsweep

/-! ### A visit of a sweep -/

/-- A sweep of a domain takes an entry: valid, of that domain, and stale (R79). -/
def State.SweepTakes (s : State) (d : DomId) (e : FilterEntry) : Prop :=
  e.valid = true ∧ e.domain = d ∧ s.stale e = true

theorem State.sweptEntry_taken {s : State} {d : DomId} {e : FilterEntry} (h : s.SweepTakes d e) :
    s.sweptEntry d e = { e with valid := false } := by
  obtain ⟨hvalid, hdomain, hstale⟩ := h
  simp [State.sweptEntry, hvalid, hdomain, hstale]

theorem State.sweptEntry_kept {s : State} {d : DomId} {e : FilterEntry} (h : ¬s.SweepTakes d e) :
    s.sweptEntry d e = e := by
  refine if_neg fun hif => h ?_
  simpa [State.SweepTakes, and_assoc] using hif

theorem exec_sweepVisit {s : State} {r : RunningSweep} (hreset : s.inReset = false) (hrun : s.sweep.running = some r) :
    exec .sweepVisit s = .next (s.sweepStep r) := by
  calc exec .sweepVisit s
      = execSweepVisit s := rfl
    _ = .next (s.sweepStep r) := by rw [execSweepVisit, whileRunning_next _ s hreset, hrun]

/-- A visit with more to come moves the sweep on by one set (R79). -/
theorem State.sweepStep_goes_on (s : State) {r : RunningSweep} (hleft : 2 ≤ r.left) :
    s.sweepStep r = { s.visitSet r.domain r.next with
      sweep := { s.sweep with running := some { r with next := r.next + 1, left := r.left - 1 } } } :=
  if_pos hleft

/-- The last visit ends the sweep, hands over what it held back, and starts the next one (R80, R82). -/
theorem State.sweepStep_ends (s : State) {r : RunningSweep} (hleft : r.left ≤ 1) :
    s.sweepStep r =
      { State.releaseHeld { s.visitSet r.domain r.next with sweep := { s.sweep with running := none } } with
        sweep := nextSweep { s.sweep with running := none } } := by
  have hlast : ¬1 < r.left := by omega
  simp only [State.sweepStep, if_neg hlast, State.releaseHeld_sweep, State.visitSet, State.setFilterSet_sweep]

/-- Settles O51: the four ways are those of `State.visitSet`, and the two ends of a visit are those of `State.sweepStep`. -/
theorem sweepVisitJudgesOneSet : Obligations.SweepVisitJudgesOneSet := by
  unfold Obligations.SweepVisitJudgesOneSet
  intro s r hreset hrun f
  refine ⟨f.ways.map (s.sweptEntry r.domain), fun w => ⟨fun htaken => ?_, fun hkept => ?_⟩, fun hleft => ?_,
    fun hleft => ⟨_, rfl, fun hqueue => ?_, fun d rest hqueue => ?_⟩⟩
  · rw [Fin.getElem_fin, Vector.getElem_map]
    exact State.sweptEntry_taken htaken
  · rw [Fin.getElem_fin, Vector.getElem_map]
    exact State.sweptEntry_kept hkept
  · have hnext : Fin.ofNat 512 (r.next.val + 1) = r.next + 1 := by ext; simp [Fin.val_add]
    rw [exec_sweepVisit hreset hrun, s.sweepStep_goes_on hleft, hnext]
    rfl
  · rw [exec_sweepVisit hreset hrun, s.sweepStep_ends hleft, nextSweep, hqueue]
    rfl
  · rw [exec_sweepVisit hreset hrun, s.sweepStep_ends hleft, nextSweep, hqueue]
    rfl

end Sys2Proof.Machine
end

section
/-! PROOFS. Faults, events and the interrupt line (chapter 9): what an offered record does to the fault queue, that every step
keeps the queue and the lost count within their bounds, and the statements that these settle. -/

namespace Sys2Proof.Machine

/-! ### Requests of the management port -/

theorem inFlags_iff (bits : BitVec 24) : inFlags bits = true ↔ bits.toNat < 2 ^ 19 := by
  simp [inFlags]

theorem exec_setMask {s : State} {bits : BitVec 24} (h : s.Receives 0x03#8 (beBytes 3 bits.toNat)) :
    exec (.setMask bits) s = .next (
      if inFlags bits then (s.setEventMask (bits.setWidth 19)).reply 0x03#8 (beBytes 3 bits.toNat) .ok []
      else s.reply 0x03#8 (beBytes 3 bits.toNat) .arg []) := by
  rw [exec, execSetMask, request_next _ _ _ s h]

theorem exec_clearEvents {s : State} {bits : BitVec 24} (h : s.Receives 0x04#8 (beBytes 3 bits.toNat)) :
    exec (.clearEvents bits) s = .next (
      if inFlags bits then (s.clearFlags (bits.setWidth 19)).reply 0x04#8 (beBytes 3 bits.toNat) .ok []
      else s.reply 0x04#8 (beBytes 3 bits.toNat) .arg []) := by
  rw [exec, execClearEvents, request_next _ _ _ s h]

/-- Bit 17 of the field, FAULT_LOST's, is among the nineteen that a clearing takes (R153, R155). -/
theorem State.clearFlags_setWidth (s : State) (bits : BitVec 24) :
    s.clearFlags (bits.setWidth 19) = { s with faults := { s.faults with
      flags := s.faults.flags &&& ~~~(bits.setWidth 19)
      lost := if bits.getLsbD 17 then 0 else s.faults.lost } } := by
  have hbit : (bits.setWidth 19).getLsbD (eventIndex .faultLost) = bits.getLsbD 17 := by
    simp [eventIndex]
  rw [State.clearFlags, hbit]

/-- Settles O10: each request by whether its field stays within the nineteen flags. -/
theorem maskAndEventsSetAndCleared : Obligations.MaskAndEventsSetAndCleared := by
  unfold Obligations.MaskAndEventsSetAndCleared
  intro s bits
  have outside : 2 ^ 19 ≤ bits.toNat → ¬inFlags bits = true := fun hout hin =>
    absurd ((inFlags_iff bits).1 hin) (Nat.not_lt.2 hout)
  refine ⟨fun h => ⟨fun hin => ?_, fun hout => ?_⟩, fun h => ⟨fun hin => ?_, fun hout => ?_⟩⟩
  · rw [exec_setMask h, if_pos ((inFlags_iff bits).2 hin), State.setEventMask]
  · rw [exec_setMask h, if_neg (outside hout)]
  · rw [exec_clearEvents h, if_pos ((inFlags_iff bits).2 hin), State.clearFlags_setWidth]
  · rw [exec_clearEvents h, if_neg (outside hout)]

/-- A request of the management port is a move if its effect is. -/
theorem inRequest_closed {R : State → State → Prop} (h : Closed R) {bytes : List Byte} {f : State → State} {s t : State}
    (he : inRequest bytes f s = .next t) (hf : R s (f s)) : R s t := by
  refine whileRunning_closed h _ s t ?_ he
  split
  · exact hf
  · exact h.refl s

/-! ### The acceptance of a request -/

/-- A first evaluation is a chain of moves if the enqueueing of its request is one (R7, R52, R88). -/
theorem State.evaluateFirst_closed {R : State → State → Prop} (h : Closed R) (s : State) (e : Entry)
    (hk : ∀ t f, f.arrival = e.arrival → t.hold = s.hold → t.host = s.host → R t (State.enqueueEntry t f)) :
    R s (s.evaluateFirst e) := by
  have carried : R s (s.carryOut State.enqueueEntry e (s.decision e)) :=
    s.carryOut_closed h State.enqueueEntry e hk fun d lines region _ => s.allocateSlots_hold_host d region lines
  unfold State.evaluateFirst
  dsimp only
  split
  · exact h.trans carried (State.reevaluate_closed h _ _)
  · exact carried

/-- An acceptance is a place in the response lists and a chain of moves, if enqueueing is one (R1, R7, R19). -/
theorem State.accept_closed {R : State → State → Prop} (h : Closed R) (s : State) (q : Request)
    (hentered : R s (s.entered q .held)) (hk : ∀ t f, R t (State.enqueueEntry t f)) : R s (s.accept q) := by
  have refused : ∀ t n c kind d, R t (State.refuseAtAcceptance t n q c kind d) := fun t n c kind d =>
    h.trans (h.setMark t n .refused) (h.trans (h.countGlobal _ c) (State.fault_closed h _ _ _ _ _ _ _))
  have seen : ∀ t d, R t (State.countWriteSeen t q d) := by
    intro t d
    unfold State.countWriteSeen
    split
    · exact t.count_closed h _ _ _
    · exact h.refl t
  unfold State.accept
  dsimp only
  split
  · exact h.trans hentered (refused _ _ _ _ _)
  · exact h.trans hentered (refused _ _ _ _ _)
  · exact h.trans hentered (h.trans (seen _ _) (State.evaluateFirst_closed h _ _ fun t f _ _ _ => hk t f))

/-! ### The fault queue -/

/-- A record offered to a queue with a free place joins its tail (R150, R151). -/
theorem State.enqueueFault_room (s : State) (r : FaultRecord) (h : s.faults.queue.length < 8) :
    s.enqueueFault r = { s with faults := { s.faults with
      queue := s.faults.queue ++ [r], flags := s.faults.flags ||| (1#19 <<< 16) } } :=
  if_pos h

/-- A record offered to a full queue replaces the newest and counts as one lost (R150, R151). -/
theorem State.enqueueFault_full (s : State) (r : FaultRecord) (h : s.faults.queue.length = 8)
    (hlost : s.faults.lost ≤ 255) : s.enqueueFault r = { s with faults := { s.faults with
      queue := s.faults.queue.take 7 ++ [r], lost := min (s.faults.lost + 1) 255,
      flags := s.faults.flags ||| (1#19 <<< 17) ||| (1#19 <<< 16) } } := by
  have hfull : ¬s.faults.queue.length < Config.faultPlaces := by rw [h]; decide
  have hqueue : s.faults.queue.dropLast = s.faults.queue.take 7 := by rw [List.dropLast_eq_take, h]
  have hcount : (if s.faults.lost < Config.maxLost then s.faults.lost + 1 else Config.maxLost) =
      min (s.faults.lost + 1) 255 := by
    unfold Config.maxLost
    split <;> omega
  rw [State.enqueueFault, if_neg hfull, hqueue, hcount]
  rfl

/-- From one state to another the fault queue and the lost count stay within their bounds (R151). -/
def FaultsKept (s t : State) : Prop := s.FaultsBounded → t.FaultsBounded

/-- The bounds hold on while neither the queue nor the lost count grows. -/
theorem FaultsKept.of_le {s t : State} (hqueue : t.faults.queue.length ≤ s.faults.queue.length)
    (hlost : t.faults.lost ≤ s.faults.lost) : FaultsKept s t :=
  fun ⟨h1, h2⟩ => ⟨hqueue.trans h1, hlost.trans h2⟩

theorem FaultsKept.of_eq {s t : State} (h : t.faults = s.faults) : FaultsKept s t :=
  .of_le (by rw [h]) (by rw [h])

theorem State.enqueueFault_faultsKept (s : State) (r : FaultRecord) : FaultsKept s (s.enqueueFault r) := by
  rintro ⟨hqueue, hlost⟩
  unfold Config.faultPlaces at hqueue
  unfold Config.maxLost at hlost
  unfold State.FaultsBounded Config.faultPlaces Config.maxLost
  rcases hqueue.lt_or_eq with hroom | hfull
  · rw [s.enqueueFault_room r hroom]
    exact ⟨by rw [List.length_append, List.length_singleton]; omega, hlost⟩
  · rw [s.enqueueFault_full r hfull hlost]
    exact ⟨by simp, Nat.min_le_right _ _⟩

theorem State.requestSweep_faults (s : State) (d : DomId) : (s.requestSweep d).faults = s.faults := by
  rw [State.requestSweep_eq]

theorem State.count_faultsKept (s : State) (d : DomId) (c : Counter) (n : Nat) : FaultsKept s (s.count d c n) := by
  obtain ⟨_, _, h⟩ := s.count_eq d c n
  rw [h]
  exact .of_le le_rfl le_rfl

theorem State.reserve_faultsKept (s : State) (d : DomId) (n : Nat) : FaultsKept s (s.reserve d n) := by
  unfold State.reserve
  dsimp only
  split
  · exact fun h => State.count_faultsKept _ _ _ _ (FaultsKept.of_le (s := s) le_rfl le_rfl h)
  · exact .of_eq rfl

theorem State.fillSlots_faults (d : DomId) (region : Fin 16) (slots : List SlotId) :
    ∀ (s : State) (lines : List Line) (p : Nat), (s.fillSlots d region slots lines p).faults = s.faults := by
  induction slots with
  | nil => intro s lines p; simp [State.fillSlots]
  | cons k slots ih =>
    intro s lines p
    cases lines with
    | nil => simp [State.fillSlots]
    | cons l lines =>
      obtain ⟨_, _, _, _, _, hhanded, _⟩ :=
        ((s.setSlot k (s.allocatedSlot d region (s.slot k) l p)).handCaptureRead_handed k).conditions
      rw [State.fillSlots, ih, hhanded, State.setSlot_faults]

/-- Every move of the part's shared operations keeps the bounds: only an offered record lets the queue or the lost count
grow. -/
theorem faultsKept_closed : Closed FaultsKept where
  refl _ := id
  trans h h' := h' ∘ h
  raise _ _ := .of_le le_rfl le_rfl
  enqueueFault := State.enqueueFault_faultsKept
  countGlobal _ _ := .of_eq rfl
  domain _ _ _ _ := .of_eq rfl
  requestSweep s d := .of_eq (s.requestSweep_faults d)
  setMark _ _ _ := .of_eq rfl
  dropEntry _ _ := .of_eq rfl
  rewrite _ _ _ := .of_eq rfl
  forward s dir _ := .of_eq (s.setSide_faults dir _)
  handOver s a := .of_eq (s.handOver_faults a)
  freeId s dir id := .of_eq (s.freeId_faults dir id)
  timeOutOwn s dir p := .of_eq (s.timeOutOwn_faults dir p)
  handed _ _ _ _ := .of_eq rfl
  filled _ _ _ _ _ := .of_eq rfl
  freeSlot _ _ _ := .of_eq rfl
  allocate s d region lines _ := fun h =>
    FaultsKept.of_eq (State.fillSlots_faults d region _ _ _ _) (s.reserve_faultsKept d lines.length h)
  insert s d l p := by
    obtain ⟨_, _, _, h⟩ := s.filterInsert_eq d l p
    rw [h]
    exact .of_le le_rfl le_rfl
  walk _ _ := .of_eq rfl
  waiting _ _ := .of_eq rfl

/-! ### The commands that are no chains of moves -/

theorem State.accept_faultsKept (s : State) (q : Request) : FaultsKept s (s.accept q) := by
  refine s.accept_closed faultsKept_closed q (.of_eq rfl) fun t f => ?_
  unfold State.enqueueEntry
  dsimp only
  split
  · exact fun h => State.count_faultsKept _ _ _ _ (FaultsKept.of_eq (s := t) rfl h)
  · exact .of_eq rfl

theorem State.giveUpstream_faults (s : State) (u : Unanswered) (resp : MemResp) :
    (s.giveUpstream u resp).faults = s.faults := by
  simp [State.giveUpstream]

theorem State.deliver_faults (s : State) (id : InitId) (resp : MemResp) (busy : Bool) :
    (s.deliver id resp busy).faults = s.faults := by
  unfold State.deliver
  dsimp only
  split
  · split
    · exact s.giveUpstream_faults _ _
    · exact s.setUp_faults _ _
  · rfl

theorem State.answerHead_faults (s : State) (dir : Dir) (u : Unanswered) : (s.answerHead dir u).faults = s.faults := by
  unfold State.answerHead
  split
  · rfl
  · exact s.giveUpstream_faults _ _
  · split
    · split
      · rw [State.giveUpstream_faults, State.setUp_faults]
      · rfl
    · rfl

theorem State.releaseHeld_faults (s : State) : s.releaseHeld.faults = s.faults := by
  obtain ⟨_, _, _, _, _, hfaults, _⟩ := s.releaseHeld_handed.conditions
  exact hfaults

theorem State.sweepStep_faultsKept (s : State) (r : RunningSweep) : FaultsKept s (s.sweepStep r) := by
  rcases Nat.lt_or_ge 1 r.left with hmore | hlast
  · rw [s.sweepStep_goes_on hmore]
    exact .of_eq rfl
  · rw [s.sweepStep_ends hlast]
    exact .of_eq (by simp only [State.releaseHeld_faults, State.visitSet, State.setFilterSet_faults])

theorem State.busClock_faults (s : State) : s.busClock.faults = s.faults := by
  unfold State.busClock
  split
  · rfl
  · split <;> rfl

theorem State.clockByte_faults (s : State) : s.clockByte.faults = s.faults := by
  obtain ⟨_, _, h⟩ := s.clockByte_eq
  rw [h]

/-- A completed reply takes the oldest record out of the queue, or leaves the queue as it is (R145, R152, R165). -/
theorem State.completeReply_faultsKept (s : State) : FaultsKept s s.completeReply := by
  unfold State.completeReply
  split
  · next sel _ _ => cases sel <;> exact .of_eq rfl
  · exact .of_eq rfl
  · exact .of_le (by simp) le_rfl
  · exact .of_eq rfl

theorem State.clearFlags_faultsKept (s : State) (set : BitVec 19) : FaultsKept s (s.clearFlags set) := by
  refine .of_le le_rfl ?_
  unfold State.clearFlags
  dsimp only
  split
  · exact Nat.zero_le _
  · exact le_rfl

/-! ### Every step -/

theorem FaultsKept.of_running {f : State → State} {s t : State} (he : whileRunning f s = .next t)
    (hf : FaultsKept s (f s)) : FaultsKept s t :=
  whileRunning_closed faultsKept_closed f s t hf he

theorem FaultsKept.of_request {bytes : List Byte} {f : State → State} {s t : State}
    (he : inRequest bytes f s = .next t) (hf : FaultsKept s (f s)) : FaultsKept s t :=
  inRequest_closed faultsKept_closed he hf

theorem FaultsKept.of_operation {s t : State} (op : DomOp) (b : Byte) (he : exec (opCommand op b) s = .next t) :
    FaultsKept s t :=
  exec_operation_closed faultsKept_closed (fun _ _ _ => .of_eq rfl) op b s t he

theorem execReadRequest_faultsKept {h : Header} {s t : State} (he : execReadRequest h s = .next t) : FaultsKept s t := by
  refine .of_running he ?_
  split
  · exact s.accept_faultsKept _
  · exact .of_eq rfl

theorem execWriteRequest_faultsKept {beats : List WriteBeat} {s t : State} (he : execWriteRequest beats s = .next t) :
    FaultsKept s t := by
  refine .of_running he ?_
  split
  · split
    · exact fun h => State.accept_faultsKept _ _ (FaultsKept.of_eq (s := s) rfl h)
    · exact .of_eq rfl
  · exact .of_eq rfl

theorem execMspIssue_faultsKept {dir : Dir} {id : DownId} {s t : State} (he : execMspIssue dir id s = .next t) :
    FaultsKept s t := by
  refine .of_running he (.of_eq ?_)
  split
  · exact s.setSide_faults dir _
  · rfl

theorem execForwardedResponse_faultsKept {id : InitId} {resp : MemResp} {busy : Bool} {s t : State}
    (he : execForwardedResponse id resp busy s = .next t) : FaultsKept s t := by
  have delivered (arrival : Nat) : ((s.dropIssued (respDir resp) arrival).deliver id resp busy).faults = s.faults := by
    rw [State.deliver_faults, State.dropIssued, State.setSide_faults]
  refine .of_running he (.of_eq ?_)
  split
  · split
    · dsimp only
      split
      · rw [State.releaseHeld_faults, delivered]
      · exact delivered _
    · rfl
  · rfl

theorem execUpstreamResponse_faultsKept {dir : Dir} {id : InitId} {s t : State}
    (he : execUpstreamResponse dir id s = .next t) : FaultsKept s t := by
  refine .of_running he (.of_eq ?_)
  split
  · exact s.answerHead_faults dir _
  · rfl

theorem execSweepVisit_faultsKept {s t : State} (he : execSweepVisit s = .next t) : FaultsKept s t := by
  refine .of_running he ?_
  split
  · exact s.sweepStep_faultsKept _
  · exact .of_eq rfl

theorem execReplyComplete_faultsKept {s t : State} (he : execReplyComplete s = .next t) : FaultsKept s t := by
  refine .of_running he ?_
  split
  · exact s.completeReply_faultsKept
  all_goals exact .of_eq rfl

theorem execClearEvents_faultsKept {bits : BitVec 24} {s t : State} (he : execClearEvents bits s = .next t) :
    FaultsKept s t := by
  refine .of_request he ?_
  split
  · exact s.clearFlags_faultsKept _
  · exact .of_eq rfl

theorem execSetRegion_faultsKept {entry flags : Byte} {base : Addr} {pages : BitVec 32} {s t : State}
    (he : execSetRegion entry flags base pages s = .next t) : FaultsKept s t := by
  refine .of_request he (.of_eq ?_)
  split
  · split <;> rfl
  · rfl

theorem execSetDomain_faultsKept {domain : Byte} {journalBase : Addr} {capacity : BitVec 32} {anchorBase : Addr}
    {flags : Byte} {highMark : BitVec 32} {s t : State}
    (he : execSetDomain domain journalBase capacity anchorBase flags highMark s = .next t) : FaultsKept s t := by
  refine .of_request he (.of_eq ?_)
  split
  · split
    · rfl
    · split <;> rfl
  · rfl

/-- Every command keeps the bounds of the fault queue and of the lost count: the inner commands and the domain operations as
chains of moves, the others by what they write of the fault block, which for most is nothing (R151). -/
theorem exec_faultsKept {c : Instr} {s t : State} (he : exec c s = .next t) : FaultsKept s t := by
  cases c with
  | lateResponse | captureReadIssue | oldLineReadResponse | recordWriteIssue | recordWriteResponse
  | formatSlot1Issue | formatSlot1Response | formatInvalidateResponse | anchorReadIssue | anchorReadResponse
  | anchorWriteIssue | commitAnchorResponse | recordReadResponse | replayWriteIssue | replayWriteResponse
  | rollbackAnchorResponse | recoverAnchorResponse | holdTimeout | memTimeout =>
    exact exec_inner_closed faultsKept_closed _ s t rfl he
  | format b => exact .of_operation .format b he
  | recover b => exact .of_operation .recover b he
  | commit b => exact .of_operation .commit b he
  | rollback b => exact .of_operation .rollback b he
  | close b => exact .of_operation .close b he
  | readRequest => exact execReadRequest_faultsKept he
  | writeRequest => exact execWriteRequest_faultsKept he
  | mspIssue => exact execMspIssue_faultsKept he
  | forwardedResponse => exact execForwardedResponse_faultsKept he
  | upstreamResponse => exact execUpstreamResponse_faultsKept he
  | sweepVisit => exact execSweepVisit_faultsKept he
  | replyComplete => exact execReplyComplete_faultsKept he
  | clearEvents => exact execClearEvents_faultsKept he
  | setRegion => exact execSetRegion_faultsKept he
  | setDomain => exact execSetDomain_faultsKept he
  | writeAddressTaken | absorbedResponse | tick | cutReply | shortFrame | longFrame =>
    simp only [exec, execWriteAddressTaken, execAbsorbedResponse, execTick, execCutReply, execShortFrame,
      execLongFrame] at he
    refine .of_running he ?_
    repeat' split
    all_goals exact .of_le le_rfl le_rfl
  | crcMismatch | unknownOpcode | ident | getStatus | setMask | setTiming | getRegion | getDomain | getCounter
  | takeFault | domainOp =>
    simp only [exec, execCrcMismatch, execUnknownOpcode, execIdent, execGetStatus, execSetMask, execSetTiming,
      execGetRegion, execGetDomain, execGetCounter, execTakeFault, execDomainOp] at he
    refine .of_request he ?_
    repeat' split
    all_goals exact .of_le le_rfl le_rfl
  | frameStart | frameEnd | rstNRelease | supplyStable =>
    cases he
    refine .of_eq ?_
    repeat' split
    all_goals rfl
  | rstNAssert | powerOnReset | supplyLoss =>
    cases he
    exact fun _ => ⟨Nat.zero_le _, Nat.zero_le _⟩

/-- Every step keeps the bounds: a command from the front of the queue, or an idle step (R151). -/
theorem step_faultsKept {s t : State} (hs : step s = .next t) : FaultsKept s t := by
  unfold step at hs
  split at hs
  · exact fun h => exec_faultsKept hs (FaultsKept.of_eq (s := s) rfl h)
  · cases hs
    exact .of_eq (by rw [State.clockByte_faults, State.busClock_faults])

/-- Settles O54: an offered record by whether the queue has a free place, and the bounds through every move of the part. -/
theorem faultQueueKeepsEight : Obligations.FaultQueueKeepsEight := by
  unfold Obligations.FaultQueueKeepsEight
  exact ⟨fun s r => ⟨s.enqueueFault_room r, s.enqueueFault_full r⟩, fun _ _ h hs => step_faultsKept hs h⟩

end Sys2Proof.Machine
end

section
/-! PROOFS. The management port (chapter 10): the order in which SET_TIMING makes its checks, what it answers for each outcome,
and the statement that these settle. -/

namespace Sys2Proof.Machine

/-! ### The settings of the timers -/

@[simp] theorem mem_allDoms (d : DomId) : d ∈ allDoms := by
  fin_cases d <;> decide

/-- The ranges of SET_TIMING: a divider of 1 to 1024 and a memory time-out of at most 4095. Every 16-bit hold time-out is
in range (R170). -/
def TimingInRange (tickDiv memTimeout : BitVec 16) : Prop :=
  1 ≤ tickDiv.toNat ∧ tickDiv.toNat ≤ 1024 ∧ memTimeout.toNat ≤ 4095

/-- The model's check of the ranges, which counts the ways to leave them. -/
theorem timingOutOfRange_iff (tickDiv memTimeout : BitVec 16) :
    (decide (tickDiv = 0) || decide (1024 < tickDiv.toNat) || decide (4095 < memTimeout.toNat)) = true ↔
      ¬TimingInRange tickDiv memTimeout := by
  have hzero : tickDiv = 0 ↔ tickDiv.toNat = 0 := BitVec.toNat_eq
  simp only [Bool.or_eq_true, decide_eq_true_eq, hzero, TimingInRange]
  omega

theorem someDomainInUse_iff (s : State) :
    (allDoms.any fun d => decide ((s.dom d).state ≠ .off)) = true ↔ ∃ d, (s.dom d).state ≠ .off := by
  simp

theorem State.timingStatus_arg (s : State) {tickDiv memTimeout : BitVec 16} (hout : ¬TimingInRange tickDiv memTimeout) :
    s.timingStatus tickDiv memTimeout = .arg :=
  if_pos ((timingOutOfRange_iff tickDiv memTimeout).2 hout)

/-- Within the ranges the domains decide (R170). -/
theorem State.timingStatus_inRange (s : State) {tickDiv memTimeout : BitVec 16} (hin : TimingInRange tickDiv memTimeout) :
    s.timingStatus tickDiv memTimeout =
      if allDoms.any fun d => decide ((s.dom d).state ≠ .off) then .state else .ok :=
  if_neg fun hout => (timingOutOfRange_iff tickDiv memTimeout).1 hout hin

theorem State.timingStatus_state {s : State} {tickDiv memTimeout : BitVec 16} (hin : TimingInRange tickDiv memTimeout)
    (hused : ∃ d, (s.dom d).state ≠ .off) : s.timingStatus tickDiv memTimeout = .state := by
  rw [s.timingStatus_inRange hin, if_pos ((someDomainInUse_iff s).2 hused)]

theorem State.timingStatus_ok {s : State} {tickDiv memTimeout : BitVec 16} (hin : TimingInRange tickDiv memTimeout)
    (hoff : ∀ d, (s.dom d).state = .off) : s.timingStatus tickDiv memTimeout = .ok := by
  have hunused : ¬∃ d, (s.dom d).state ≠ .off := fun ⟨d, hd⟩ => hd (hoff d)
  rw [s.timingStatus_inRange hin, if_neg (hunused ∘ (someDomainInUse_iff s).1)]

/-- The argument bytes of SET_TIMING (R170, R178). -/
def timingArgs (tickDiv holdTimeout memTimeout : BitVec 16) : List Byte :=
  beBytes 2 tickDiv.toNat ++ beBytes 2 holdTimeout.toNat ++ beBytes 2 memTimeout.toNat

section
variable {s : State} {tickDiv holdTimeout memTimeout : BitVec 16}

/-- A SET_TIMING whose checks do not pass is answered with the status of the first that fails, and changes nothing else
(R170). -/
theorem exec_setTiming_refused {status : Status} (h : s.Receives 0x05#8 (timingArgs tickDiv holdTimeout memTimeout))
    (hstatus : s.timingStatus tickDiv memTimeout = status) (hne : status ≠ .ok) :
    exec (.setTiming tickDiv holdTimeout memTimeout) s =
      .next (s.reply 0x05#8 (timingArgs tickDiv holdTimeout memTimeout) status []) := by
  unfold timingArgs at h ⊢
  rw [exec, execSetTiming, request_next _ _ _ s h, hstatus]
  cases status with
  | ok => exact absurd rfl hne
  | _ => rfl

/-- A SET_TIMING whose checks pass sets the timers and is answered OK (R170). -/
theorem exec_setTiming_ok (h : s.Receives 0x05#8 (timingArgs tickDiv holdTimeout memTimeout))
    (hstatus : s.timingStatus tickDiv memTimeout = .ok) :
    exec (.setTiming tickDiv holdTimeout memTimeout) s =
      .next ((s.setTimes tickDiv.toNat holdTimeout.toNat memTimeout.toNat).reply 0x05#8
        (timingArgs tickDiv holdTimeout memTimeout) .ok []) := by
  unfold timingArgs at h ⊢
  rw [exec, execSetTiming, request_next _ _ _ s h, hstatus]

end

/-- Settles O12: the status of each of the three cases, and the answer to a SET_TIMING of that status. -/
theorem timingSetOnlyWhileAllOff : Obligations.TimingSetOnlyWhileAllOff := by
  unfold Obligations.TimingSetOnlyWhileAllOff
  intro s tickDiv holdTimeout memTimeout args h inRange
  refine ⟨fun hout => ?_, fun hin hused => ?_, fun hin hoff => ?_⟩
  · exact exec_setTiming_refused h (s.timingStatus_arg hout) (by decide)
  · exact exec_setTiming_refused h (State.timingStatus_state hin hused) (by decide)
  · exact exec_setTiming_ok h (State.timingStatus_ok hin hoff)

end Sys2Proof.Machine
end

section
/-! PROOFS. What an acceptance comes to, and what an allocation does slot by slot: the two operations of the access path that
add to the hold queue and to the capture slots. -/

namespace Sys2Proof.Machine

-- One declaration at a time: under the check's memory limit there is no room for many threads' stacks.
set_option Elab.async false

/-! ### Chains of moves -/

/-- The second state is reached from the first by a chain of the moves of `Closed`. -/
def Moves (s t : State) : Prop := ∀ R : State → State → Prop, Closed R → R s t

theorem moves_closed : Closed Moves where
  refl s _ h := h.refl s
  trans h h' R c := c.trans (h R c) (h' R c)
  raise s e _ h := h.raise s e
  enqueueFault s r _ h := h.enqueueFault s r
  countGlobal s c _ h := h.countGlobal s c
  domain s d y m _ h := h.domain s d y m
  requestSweep s d _ h := h.requestSweep s d
  setMark s a m _ h := h.setMark s a m
  dropEntry s a _ h := h.dropEntry s a
  rewrite s g hg _ h := h.rewrite s g hg
  forward s dir f _ h := h.forward s dir f
  handOver s a _ h := h.handOver s a
  freeId s dir id _ h := h.freeId s dir id
  timeOutOwn s dir p _ h := h.timeOutOwn s dir p
  handed s k r w _ h := h.handed s k r w
  filled s k b dl hk _ h := h.filled s k b dl hk
  freeSlot s k hk _ h := h.freeSlot s k hk
  allocate s d region lines ha _ h := h.allocate s d region lines ha
  insert s d l p _ h := h.insert s d l p
  walk s w _ h := h.walk s w
  waiting s l _ h := h.waiting s l

/-! ### Acceptance -/

/-- Only a decision to hold asks for what keeps a held request. -/
theorem State.carryOut_of_leaves (s : State) (keep keep' : State → Entry → State) (e : Entry) {dec : Decision}
    (h : dec.leaves = true) : s.carryOut keep e dec = s.carryOut keep' e dec := by
  cases dec with
  | forward | refuseOff | refuseFull | breakForward => rfl
  | hold | allocate => cases h

/-- A first evaluation is a chain of moves, or a chain of moves that leaves the queue and the port alone and then enqueues the
request (R7, R88). -/
theorem State.evaluateFirst_cases (s : State) (e : Entry) :
    Moves s (s.evaluateFirst e) ∨
      ∃ t f, Moves s t ∧ f.arrival = e.arrival ∧ t.hold = s.hold ∧ t.host = s.host ∧
        s.evaluateFirst e = t.enqueueEntry f := by
  have leaves : (s.decision e).leaves = true → Moves s (s.evaluateFirst e) := by
    intro hl
    have carried := s.reevaluated_closed moves_closed e
    rw [s.carryOut_of_leaves _ State.enqueueEntry e hl] at carried
    unfold State.evaluateFirst
    dsimp only
    split
    · exact moves_closed.trans carried (State.reevaluate_closed moves_closed _ _)
    · exact carried
  rcases hd : s.decision e with n | _ | _ | _ | ⟨w, ls, c⟩ | lines
  case hold =>
    refine .inr ⟨s, { e with wait := w, uncovered := ls, carried := c }, moves_closed.refl s, rfl, rfl, rfl, ?_⟩
    simp only [State.evaluateFirst, hd, State.carryOut]
  case allocate =>
    obtain ⟨d, hdom, hal⟩ := s.decision_allocate e lines hd
    obtain ⟨hhold, hhost⟩ := s.allocateSlots_hold_host d (e.region.getD 0) lines
    let f : Entry := { e with
      wait := .capture, uncovered := lines, own := e.own ++ lines.filter (fun l => decide (l ∉ e.own)), carried := false }
    refine .inr ⟨_, f, moves_closed.allocate s d (e.region.getD 0) lines hal, rfl, hhold, hhost, ?_⟩
    simp only [State.evaluateFirst, hd, State.carryOut, hdom, f]
  all_goals exact .inl (leaves (by rw [hd]; rfl))

theorem State.countWriteSeen_hold_host (s : State) (q : Request) (d : Option DomId) :
    (s.countWriteSeen q d).hold = s.hold ∧ (s.countWriteSeen q d).host = s.host := by
  unfold State.countWriteSeen
  split
  · obtain ⟨_, _, h⟩ := s.count_eq _ .writesSeen 1
    rw [h]
    exact ⟨rfl, rfl⟩
  · exact ⟨rfl, rfl⟩

theorem State.countWriteSeen_moves (s : State) (q : Request) (d : Option DomId) : Moves s (s.countWriteSeen q d) := by
  unfold State.countWriteSeen
  split
  · exact s.count_closed moves_closed _ _ _
  · exact moves_closed.refl s

/-- An acceptance is a place in the response lists and a chain of moves, after which the request may be enqueued (R1, R7,
R19, R88). -/
theorem State.accept_cases (s : State) (q : Request) :
    Moves (s.entered q .held) (s.accept q) ∨
      ∃ t f, Moves (s.entered q .held) t ∧ f.arrival = s.host.nextArrival ∧ t.hold = s.hold ∧
        t.host = (s.entered q .held).host ∧ s.accept q = t.enqueueEntry f := by
  have refused : ∀ c kind d, Moves (s.entered q .held)
      (State.refuseAtAcceptance (s.entered q .held) s.host.nextArrival q c kind d) := fun c kind d =>
    moves_closed.trans (moves_closed.setMark _ _ .refused)
      (moves_closed.trans (moves_closed.countGlobal _ c) (moves_closed.enqueueFault _ _))
  unfold State.accept
  dsimp only
  split
  · exact .inl (refused _ _ _)
  · exact .inl (refused _ _ _)
  · next domain _ =>
    have seen := State.countWriteSeen_moves (s.entered q .held) q domain
    obtain ⟨hhold, hhost⟩ := State.countWriteSeen_hold_host (s.entered q .held) q domain
    rcases State.evaluateFirst_cases ((s.entered q .held).countWriteSeen q domain) _ with h |
      ⟨t, f, h, hf, hthold, hthost, he⟩
    · exact .inl (moves_closed.trans seen h)
    · exact .inr ⟨t, f, moves_closed.trans seen h, hf, hthold.trans hhold, hthost.trans hhost, he⟩

/-! ### The capture slots that an allocation sets -/

@[simp] theorem mem_allSlots (k : SlotId) : k ∈ allSlots := by
  fin_cases k <;> decide

theorem allSlots_nodup : allSlots.Nodup := by decide

@[simp] theorem State.mem_freeSlots (s : State) (k : SlotId) : k ∈ s.freeSlots ↔ (s.slot k).state = .free := by
  simp [State.freeSlots]

theorem State.freeSlots_nodup (s : State) : s.freeSlots.Nodup := allSlots_nodup.filter _

/-- The two conditions of R53 for the old-line read of a line. -/
def State.lineClear (s : State) (l : Line) : Bool := !s.lineWriteOut l && !s.lateReplayTo l

theorem State.lineClear_iff (s : State) (l : Line) :
    s.lineClear l = true ↔ s.lineWriteOut l = false ∧ s.lateReplayTo l = false := by
  simp [State.lineClear]

/-- A slot as an allocation leaves it: its old-line read is handed over at once if the line is clear (R48, R53). -/
def State.filledSlot (s : State) (d : DomId) (region : Fin 16) (old : Slot) (l : Line) (position : Nat) : Slot :=
  { s.allocatedSlot d region old l position with readIssued := s.lineClear l }

/-- One slot of an allocation. -/
def State.fillSlot (s : State) (d : DomId) (region : Fin 16) (k : SlotId) (l : Line) (position : Nat) : State :=
  (s.setSlot k (s.allocatedSlot d region (s.slot k) l position)).handCaptureRead k

theorem State.fillSlots_cons (s : State) (d : DomId) (region : Fin 16) (k : SlotId) (ks : List SlotId) (l : Line)
    (ls : List Line) (p : Nat) :
    s.fillSlots d region (k :: ks) (l :: ls) p = (s.fillSlot d region k l p).fillSlots d region ks ls (p + 1) := rfl

/-- The old-line read of a slot just set is the one that waits. -/
theorem State.captureReadReady_allocated (s : State) (d : DomId) (region : Fin 16) (k : SlotId) (l : Line) (p : Nat) :
    (s.setSlot k (s.allocatedSlot d region (s.slot k) l p)).captureReadReady k = s.lineClear l := by
  simp [State.captureReadReady, State.allocatedSlot, State.lineClear, State.lineWriteOut, State.outstandingWrites,
    State.lateReplayTo]

/-- One slot of an allocation sets the slot and, if the line is clear, adds its read to the own list (R48, R53). -/
theorem State.fillSlot_eq (s : State) (d : DomId) (region : Fin 16) (k : SlotId) (l : Line) (p : Nat) :
    s.fillSlot d region k l p = { s with
      slots := s.slots.set k (s.filledSlot d region (s.slot k) l p)
      mem := { s.mem with reads := { s.mem.reads with
        own := s.mem.reads.own ++
          if s.lineClear l then [captureRead k (s.filledSlot d region (s.slot k) l p)] else [] } } } := by
  unfold State.fillSlot State.handCaptureRead
  rw [State.captureReadReady_allocated]
  by_cases hc : s.lineClear l = true
  · rw [if_pos hc, if_pos hc]
    simp [State.setSlot, State.slot, State.handOver, State.setSide, State.side, captureRead, State.filledSlot,
      State.allocatedSlot, hc]
  · rw [if_neg hc, if_neg hc]
    simp [State.setSlot, State.filledSlot, State.allocatedSlot, hc]

theorem State.fillSlot_slot (s : State) (d : DomId) (region : Fin 16) (k j : SlotId) (l : Line) (p : Nat) :
    (s.fillSlot d region k l p).slot j = if j = k then s.filledSlot d region (s.slot k) l p else s.slot j := by
  rw [s.fillSlot_eq]
  exact s.setSlot_slot k j _

theorem State.fillSlot_lineClear (s : State) (d : DomId) (region : Fin 16) (k : SlotId) (l m : Line) (p : Nat) :
    (s.fillSlot d region k l p).lineClear m = s.lineClear m := by
  rw [s.fillSlot_eq]
  rfl

theorem State.fillSlot_filledSlot (s : State) (d : DomId) (region : Fin 16) (k : SlotId) (l m : Line) (p n : Nat)
    (old : Slot) :
    (s.fillSlot d region k l p).filledSlot d region old m n = s.filledSlot d region old m n := by
  rw [s.fillSlot_eq]
  rfl

/-- The slots of an allocation write the slots and the read direction's own list only. -/
theorem State.fillSlots_eq (d : DomId) (region : Fin 16) (ks : List SlotId) :
    ∀ (s : State) (ls : List Line) (p : Nat), ∃ slots own, s.fillSlots d region ks ls p = { s with
      slots := slots, mem := { s.mem with reads := { s.mem.reads with own := own } } } := by
  induction ks with
  | nil => exact fun s _ _ => ⟨s.slots, s.mem.reads.own, rfl⟩
  | cons k ks ih =>
    rintro s (_ | ⟨l, ls⟩) p
    · exact ⟨s.slots, s.mem.reads.own, rfl⟩
    · obtain ⟨slots, own, h⟩ := ih (s.fillSlot d region k l p) ls (p + 1)
      refine ⟨slots, own, ?_⟩
      rw [State.fillSlots_cons, h, State.fillSlot_eq]

theorem State.fillSlots_dom (s : State) (d : DomId) (region : Fin 16) (ks : List SlotId) (ls : List Line) (p : Nat)
    (o : DomId) : (s.fillSlots d region ks ls p).dom o = s.dom o := by
  obtain ⟨_, _, h⟩ := State.fillSlots_eq d region ks s ls p
  rw [h]
  rfl

/-- The domain record that a reservation leaves: occupancy and slots in use rise by n, and nothing else but the pressure bit
and the counters may change (R48, R49). -/
theorem State.reserve_dom_self (s : State) (d : DomId) (n : Nat) :
    ∃ pressure counters, (s.reserve d n).dom d = { reserved n (s.dom d) with
      pressure := pressure, counters := counters } := by
  unfold State.reserve
  dsimp only
  split
  · obtain ⟨cs, flags, h⟩ := State.count_eq (((s.setDom d (reserved n (s.dom d))).updDom d
      fun y => { y with pressure := true }).raise (.pressure d)) d .pressureEvents 1
    refine ⟨true, cs, ?_⟩
    unfold reserved at h ⊢
    rw [h]
    simp [State.dom, State.raise, State.updDom, State.setDom]
  · exact ⟨(s.dom d).pressure, (s.dom d).counters, by simp [reserved]⟩

theorem State.count_dom_of_ne (s : State) {d o : DomId} (h : o ≠ d) (c : Counter) (n : Nat) :
    (s.count d c n).dom o = s.dom o := by
  obtain ⟨cs, flags, he⟩ := s.count_eq d c n
  rw [he]
  exact s.setDom_dom_of_ne d o _ h

theorem State.reserve_dom_of_ne (s : State) {d o : DomId} (h : o ≠ d) (n : Nat) : (s.reserve d n).dom o = s.dom o := by
  unfold State.reserve
  dsimp only
  split
  · rw [State.count_dom_of_ne _ h, State.raise_dom, State.updDom_dom_of_ne _ _ _ _ h, State.setDom_dom_of_ne _ _ _ _ h]
  · exact s.setDom_dom_of_ne d o _ h

/-- A reservation writes the domain records and the flags only (R48, R49). -/
theorem State.reserve_eq (s : State) (d : DomId) (n : Nat) :
    ∃ domains flags, s.reserve d n = { s with domains := domains, faults := { s.faults with flags := flags } } := by
  unfold State.reserve
  dsimp only
  split
  · obtain ⟨cs, flags, h⟩ := State.count_eq (((s.setDom d (reserved n (s.dom d))).updDom d
      fun y => { y with pressure := true }).raise (.pressure d)) d .pressureEvents 1
    unfold reserved at h
    exact ⟨_, _, h⟩
  · exact ⟨_, s.faults.flags, rfl⟩

/-- An allocation writes the slots, the domain records, the flags and the read direction's own list only (R48). -/
theorem State.allocateSlots_eq (s : State) (d : DomId) (region : Fin 16) (lines : List Line) :
    ∃ slots domains flags own, s.allocateSlots d region lines = { s with
      slots := slots, domains := domains, faults := { s.faults with flags := flags },
      mem := { s.mem with reads := { s.mem.reads with own := own } } } := by
  obtain ⟨domains, flags, hr⟩ := s.reserve_eq d lines.length
  obtain ⟨slots, own, hf⟩ := State.fillSlots_eq d region s.freeSlots (s.reserve d lines.length) lines (s.dom d).occupancy
  refine ⟨slots, domains, flags, own, ?_⟩
  unfold State.allocateSlots
  rw [hf, hr]

theorem State.allocateSlots_dom (s : State) (d : DomId) (region : Fin 16) (lines : List Line) (o : DomId) :
    (s.allocateSlots d region lines).dom o = (s.reserve d lines.length).dom o :=
  State.fillSlots_dom _ _ _ _ _ _ _

end Sys2Proof.Machine
end

section
/-! PROOFS. What every step can do, said once: a relation that holds of the moves of the part's shared operations, of the
changes that the remaining commands make at the ports, the engines and the settings, and of an acceptance, holds of every
step. -/

namespace Sys2Proof.Machine

-- One declaration at a time: under the check's memory limit there is no room for many threads' stacks.
set_option Elab.async false

/-- A relation that holds of every change made by the commands that are no chains of shared moves: those of the ports, of the
sweep engine, of the timebase and the settings, of the frame engine and the pins, and of a reset. -/
structure OuterClosed (R : State → State → Prop) : Prop where
  refl : ∀ s, R s s
  trans : ∀ {s t u}, R s t → R t u → R s u
  ports : ∀ (s : State) pins globals faults frame pending, R s { s with
    pins := pins, globals := globals, faults := faults, frame := frame, pending := pending }
  counters : ∀ s d cs, R s (s.setDom d { s.dom d with counters := cs })
  handed : ∀ {s t}, HandedFrom s t → R s t
  keep : ∀ (s : State) h, s.takesAddress = true → R s { s with host := { s.host with kept := s.host.kept ++ [h] } }
  issue : ∀ s dir id turn, R s (s.setSide dir (issueHead (s.side dir) id turn))
  dropIssued : ∀ s dir a, R s (s.dropIssued dir a)
  setUp : ∀ s dir u, R s (s.setUp dir u)
  dropUnanswered : ∀ s a, R s (s.dropUnanswered a)
  sweepStep : ∀ s r, s.sweep.running = some r → R s (s.sweepStep r)
  clock : ∀ (s : State) n tick, n = 0 ∨ n < s.time.tickDiv →
    R s { s with time := { s.time with divCount := n, tick := tick } }
  times : ∀ (s : State) (a b c : BitVec 16), s.timingStatus a c = .ok → R s (s.setTimes a.toNat b.toNat c.toNat)
  region : ∀ s i flags base pages r, regionOf flags base pages = some r → R s (s.setRegion i r)
  config : ∀ s d base capacity anchor flags mark c, (s.dom d).state = .off →
    configOf base capacity anchor flags mark = some c → R s (s.updDom d fun x => { x with config := c })
  reset : ∀ s p, R s (s.resetWith p)

/-- The commands that present a request in full (R1). -/
def Instr.isRequest : Instr → Bool
  | .readRequest _ | .writeRequest _ => true
  | _ => false

/-- The five domain operations (R25). -/
def Instr.isOperation : Instr → Bool
  | .format _ | .recover _ | .commit _ | .rollback _ | .close _ => true
  | _ => false

/-- The commands whose effects `OuterClosed` lists. -/
def Instr.isOuter (c : Instr) : Bool := !Instr.isInner c && !Instr.isRequest c && !Instr.isOperation c

namespace OuterClosed

variable {R : State → State → Prop} {s t : State}

theorem of_ports (h : OuterClosed R) (he : t = { s with
    pins := t.pins, globals := t.globals, faults := t.faults, frame := t.frame, pending := t.pending }) : R s t := by
  rw [he]
  exact h.ports ..

theorem running (h : OuterClosed R) {f : State → State} (he : whileRunning f s = .next t) (hf : R s (f s)) : R s t := by
  unfold whileRunning at he
  injection he with he
  subst he
  split
  · exact h.refl s
  · exact hf

theorem request (h : OuterClosed R) {bytes : List Byte} {f : State → State} (he : inRequest bytes f s = .next t)
    (hf : R s (f s)) : R s t := by
  refine h.running he ?_
  split
  · exact hf
  · exact h.refl s

theorem reply (h : OuterClosed R) (hst : R s t) (opcode : Byte) (args : List Byte) (st : Status) (data : List Byte) :
    R s (t.reply opcode args st data) :=
  h.trans hst (h.of_ports rfl)

theorem giveUpstream (h : OuterClosed R) (s : State) (u : Unanswered) (resp : MemResp) : R s (s.giveUpstream u resp) :=
  h.trans (h.dropUnanswered s _) (h.setUp _ _ _)

theorem deliver (h : OuterClosed R) (s : State) (id : InitId) (resp : MemResp) (busy : Bool) :
    R s (s.deliver id resp busy) := by
  unfold State.deliver
  dsimp only
  split
  · split
    · exact h.giveUpstream s _ _
    · exact h.setUp s _ _
  · exact h.refl s

theorem answerHead (h : OuterClosed R) (s : State) (dir : Dir) (u : Unanswered) : R s (s.answerHead dir u) := by
  unfold State.answerHead
  split
  · exact h.refl s
  · exact h.giveUpstream s _ _
  · split
    · split
      · exact h.trans (h.setUp s _ _) (h.giveUpstream _ _ _)
      · exact h.refl s
    · exact h.refl s

theorem forwardedResponse (h : OuterClosed R) {id : InitId} {resp : MemResp} {busy : Bool}
    (he : execForwardedResponse id resp busy s = .next t) : R s t := by
  refine h.running he ?_
  split
  · next f _ =>
    split
    · have delivered := h.trans (h.dropIssued s (respDir resp) f.arrival) (h.deliver _ id resp busy)
      dsimp only
      split
      · exact h.trans delivered (h.handed (State.releaseHeld_handed _))
      · exact delivered
    · exact h.refl s
  · exact h.refl s

theorem setTiming (h : OuterClosed R) {a b c : BitVec 16} (he : execSetTiming a b c s = .next t) : R s t := by
  refine h.request he ?_
  split
  · next hst => exact h.reply (h.times s a b c hst) _ _ _ _
  · exact h.reply (h.refl s) _ _ _ _

theorem setRegion (h : OuterClosed R) {entry flags : Byte} {base : Addr} {pages : BitVec 32}
    (he : execSetRegion entry flags base pages s = .next t) : R s t := by
  refine h.request he ?_
  split
  · next i r _ hr =>
    split
    · exact h.reply (h.region s i _ _ _ r hr) _ _ _ _
    · exact h.reply (h.refl s) _ _ _ _
  · exact h.reply (h.refl s) _ _ _ _

theorem setDomain (h : OuterClosed R) {domain flags : Byte} {base anchor : Addr} {capacity mark : BitVec 32}
    (he : execSetDomain domain base capacity anchor flags mark s = .next t) : R s t := by
  refine h.request he ?_
  split
  · next d c _ hc =>
    split
    · exact h.reply (h.refl s) _ _ _ _
    · next hoff =>
      split
      · exact h.reply (h.config s d _ _ _ _ _ c (not_not.1 hoff) hc) _ _ _ _
      · exact h.reply (h.refl s) _ _ _ _
  · exact h.reply (h.refl s) _ _ _ _

theorem completeReply (h : OuterClosed R) (s : State) : R s s.completeReply := by
  unfold State.completeReply
  split
  · next sel _ _ =>
    cases sel
    · exact h.counters s _ _
    · exact h.of_ports rfl
  · exact h.refl s
  · exact h.of_ports rfl
  · exact h.refl s

theorem replyComplete (h : OuterClosed R) (he : execReplyComplete s = .next t) : R s t := by
  refine h.running he ?_
  split
  · exact h.trans (h.completeReply s) (h.of_ports rfl)
  all_goals exact h.refl s

theorem clockByte (h : OuterClosed R) (s : State) : R s s.clockByte := by
  obtain ⟨frame, clocking, he⟩ := s.clockByte_eq
  rw [he]
  exact h.of_ports rfl

theorem advanceTick (h : OuterClosed R) (s : State) : R s s.advanceTick := h.clock s 0 _ (.inl rfl)

theorem busClock (h : OuterClosed R) (s : State) : R s s.busClock := by
  unfold State.busClock
  split
  · exact h.refl s
  · split
    · next hlt => exact h.clock s _ s.time.tick (.inr hlt)
    · exact h.advanceTick s

/-- Each outer command makes the changes listed. -/
theorem of_exec (h : OuterClosed R) {c : Instr} (hc : Instr.isOuter c = true) (he : exec c s = .next t) : R s t := by
  cases c with
  | readRequest | writeRequest | format | recover | commit | rollback | close | lateResponse | captureReadIssue
  | oldLineReadResponse | recordWriteIssue | recordWriteResponse | formatSlot1Issue | formatSlot1Response
  | formatInvalidateResponse | anchorReadIssue | anchorReadResponse | anchorWriteIssue | commitAnchorResponse
  | recordReadResponse | replayWriteIssue | replayWriteResponse | rollbackAnchorResponse | recoverAnchorResponse
  | holdTimeout | memTimeout => cases hc
  | writeAddressTaken =>
    refine h.running he ?_
    split
    · next htakes => exact h.keep s _ htakes
    · exact h.refl s
  | mspIssue =>
    rw [exec, execMspIssue] at he
    refine h.running he ?_
    split
    · exact h.issue s _ _ _
    · exact h.refl s
  | forwardedResponse => exact h.forwardedResponse he
  | upstreamResponse =>
    rw [exec, execUpstreamResponse] at he
    refine h.running he ?_
    split
    · exact h.answerHead s _ _
    · exact h.refl s
  | absorbedResponse =>
    rw [exec, execAbsorbedResponse] at he
    exact h.running he (h.refl s)
  | sweepVisit =>
    rw [exec, execSweepVisit] at he
    refine h.running he ?_
    split
    · next r hr => exact h.sweepStep s r hr
    · exact h.refl s
  | tick =>
    rw [exec, execTick] at he
    refine h.running he ?_
    split
    · exact h.refl s
    · exact h.advanceTick s
  | setTiming => exact h.setTiming he
  | setRegion => exact h.setRegion he
  | setDomain => exact h.setDomain he
  | replyComplete => exact h.replyComplete he
  | cutReply | shortFrame | longFrame =>
    simp only [exec, execCutReply, execShortFrame, execLongFrame] at he
    refine h.running he (h.of_ports ?_)
    split <;> rfl
  | crcMismatch | unknownOpcode | setMask | clearEvents | getRegion | getDomain | getCounter | takeFault | domainOp =>
    simp only [exec, execCrcMismatch, execUnknownOpcode, execSetMask, execClearEvents, execGetRegion, execGetDomain,
      execGetCounter, execTakeFault, execDomainOp] at he
    refine h.request he (h.of_ports ?_)
    split <;> rfl
  | ident | getStatus =>
    simp only [exec, execIdent, execGetStatus] at he
    exact h.request he (h.of_ports rfl)
  | frameStart | frameEnd | rstNRelease | supplyStable =>
    cases he
    refine h.of_ports ?_
    repeat' split
    all_goals rfl
  | rstNAssert | powerOnReset | supplyLoss =>
    cases he
    exact h.reset s _

end OuterClosed

/-- READ_REQUEST and WRITE_REQUEST present a request that the port takes, or change nothing (R1, R86). -/
theorem exec_request_cases {c : Instr} {s t : State} (hc : Instr.isRequest c = true) (he : exec c s = .next t) :
    t = s ∨ ∃ q u, s.Presents q c u ∧ t = u.accept q := by
  cases c <;> cases hc
  case readRequest header =>
    simp only [exec, execReadRequest, whileRunning, Host.Outcome.next.injEq] at he
    subst he
    split
    · exact .inl rfl
    · split
      · next htakes => exact .inr ⟨{ header := header, kind := .read, data := [] }, s, ⟨rfl, rfl, htakes, rfl⟩, rfl⟩
      · exact .inl rfl
  case writeRequest beats =>
    simp only [exec, execWriteRequest, whileRunning, Host.Outcome.next.injEq] at he
    subst he
    split
    · exact .inl rfl
    · split
      · next header rest hkept =>
        split
        · next hlen => exact .inr ⟨{ header := header, kind := .write, data := beats }, _, ⟨rfl, hlen, rest, hkept, rfl⟩, rfl⟩
        · exact .inl rfl
      · exact .inl rfl

/-- Every step is an inner command, an acceptance, a domain operation, or made of the changes listed in `OuterClosed`. -/
theorem step_parts {R : State → State → Prop} (o : OuterClosed R)
    (inner : ∀ c s t, Instr.isInner c = true → exec c s = .next t → R s t)
    (present : ∀ s q c u, s.Presents q c u → R s (u.accept q))
    (operation : ∀ op b s t, exec (opCommand op b) s = .next t → R s t) {s t : State} (hs : step s = .next t) : R s t := by
  unfold step at hs
  split at hs
  · next c rest _ =>
    refine o.trans (o.ports s s.pins s.globals s.faults s.frame rest) ?_
    by_cases hinner : Instr.isInner c = true
    · exact inner c _ t hinner hs
    by_cases hrequest : Instr.isRequest c = true
    · rcases exec_request_cases hrequest hs with rfl | ⟨q, u, hp, rfl⟩
      · exact o.refl _
      · exact present _ q c u hp
    by_cases hop : Instr.isOperation c = true
    · cases c with
      | format b => exact operation .format b _ t hs
      | recover b => exact operation .recover b _ t hs
      | commit b => exact operation .commit b _ t hs
      | rollback b => exact operation .rollback b _ t hs
      | close b => exact operation .close b _ t hs
      | _ => cases hop
    · exact o.of_exec (by simp only [Instr.isOuter, hinner, hrequest, hop]; rfl) hs
  · cases hs
    exact o.trans (o.busClock s) (o.clockByte _)

/-- Every step is made of shared moves, of the changes listed in `OuterClosed`, or of one acceptance. -/
theorem step_closed {R : State → State → Prop} (h : Closed R) (o : OuterClosed R)
    (present : ∀ s q c u, s.Presents q c u → R s (u.accept q)) {s t : State} (hs : step s = .next t) : R s t :=
  step_parts o (fun c s t hc he => exec_inner_closed h c s t hc he) present
    (fun op b s t he => exec_operation_closed h (fun _ _ _ => o.of_ports rfl) op b s t he) hs

end Sys2Proof.Machine
end

section
/-! PROOFS. The laws of the queue, the slots, the filter, the settings, the sweeps and the IDs are kept by every step: one
relation that says that each law holds on, shown for every move. -/

namespace Sys2Proof.Machine

-- One declaration at a time: under the check's memory limit there is no room for many threads' stacks.
set_option Elab.async false

/-! ### The machine after reset -/

theorem reset_dom (d : DomId) : State.reset.dom d = Domain.reset := by
  simp [State.dom, State.reset]

theorem reset_slot (k : SlotId) : State.reset.slot k = Slot.reset := by
  simp [State.slot, State.reset]

theorem reset_way (i : Fin 512) (w : Fin 4) : (State.reset.filterSet i).ways[w] = FilterEntry.reset := by
  simp [State.filterSet, State.reset, FilterSet.reset]

theorem reset_region (i : Fin 16) : State.reset.regions[i] = Region.reset := by
  simp [State.reset]

/-- Settles O53: after reset every list is empty, and every record is the one that its reset value gives. -/
theorem resetMeetsEveryLaw : Obligations.ResetMeetsEveryLaw := by
  unfold Obligations.ResetMeetsEveryLaw
  have faults : State.reset.FaultsBounded := ⟨Nat.zero_le _, Nat.zero_le _⟩
  have latch : State.reset.LatchAtHead := fun h => by cases h
  have places : State.reset.PlacesBounded := Nat.zero_le _
  have hold : State.reset.HoldOrdered := ⟨List.Pairwise.nil, fun _ h => by cases h⟩
  have unanswered : State.reset.UnansweredOrdered := ⟨List.Pairwise.nil, fun _ h => by cases h⟩
  have bound : State.reset.UnansweredBounded := Nat.zero_le _
  have occupancy : State.reset.OccupancyBounded := fun d => by
    rw [reset_dom]
    exact ⟨le_rfl, fun _ => rfl⟩
  have distinct : State.reset.SlotsDistinct := fun j k _ hj _ => by
    rw [reset_slot] at hj
    exact absurd rfl hj
  have counted : State.reset.SlotsCounted := fun d => by
    simp [State.busySlots, reset_slot, reset_dom, Slot.reset, Domain.reset]
  have filter : State.reset.FilterUnique := fun i => by
    constructor
    · intro w hw
      rw [reset_way] at hw
      cases hw
    · intro v w _ hv
      rw [reset_way] at hv
      cases hv
  have sweeps : State.reset.SweepsOrdered := ⟨List.nodup_nil, rfl⟩
  have none : MemSide.reset.IdsDistinct := ⟨List.nodup_nil, fun _ h => by cases h⟩
  have timing : State.reset.TimingLegal := by
    simp [State.TimingLegal, State.reset, Timebase.reset, Config.resetTickDiv]
  have regions : State.reset.RegionsLegal := fun i => by
    rw [reset_region]
    exact ⟨nofun, fun _ => rfl⟩
  have configs : State.reset.ConfigsLegal := fun d => by
    rw [reset_dom]
    exact .inl rfl
  have held : State.reset.ResetHeld := fun h => by cases h
  have quiet : State.reset.FrameQuiet := ⟨fun _ => rfl, fun _ => rfl, fun h => by cases h⟩
  have frame : State.reset.FrameCounted := ⟨fun h => (by cases h), fun h => (by cases h)⟩
  exact ⟨faults, latch, places, hold, unanswered, bound, occupancy, distinct, counted, filter, sweeps, ⟨none, none⟩, timing,
    regions, configs, held, quiet, frame⟩

/-! ### The laws from one state to another -/

/-- Each of the laws that holds of the first state holds of the second. A move that does not touch what a law reads keeps it
by definition, which is each field's default. -/
structure LawsKept (s t : State) : Prop where
  places : s.PlacesBounded → t.PlacesBounded := by exact id
  holdOrder : s.HoldOrdered → t.HoldOrdered := by exact id
  unansweredOrder : s.UnansweredOrdered → t.UnansweredOrdered := by exact id
  unansweredBound : s.UnansweredBounded → t.UnansweredBounded := by exact id
  slotsDistinct : s.SlotsDistinct → t.SlotsDistinct := by exact id
  slotsCounted : s.SlotsCounted → t.SlotsCounted := by exact id
  filter : s.FilterUnique → t.FilterUnique := by exact id
  timing : s.TimingLegal → t.TimingLegal := by exact id
  regions : s.RegionsLegal → t.RegionsLegal := by exact id
  configs : s.ConfigsLegal → t.ConfigsLegal := by exact id
  sweeps : s.SweepsOrdered → t.SweepsOrdered := by exact id
  ids : s.IdsDistinct → t.IdsDistinct := by exact id

theorem LawsKept.refl (s : State) : LawsKept s s := {}

theorem LawsKept.trans {s t u : State} (h : LawsKept s t) (h' : LawsKept t u) : LawsKept s u where
  places := h'.places ∘ h.places
  holdOrder := h'.holdOrder ∘ h.holdOrder
  unansweredOrder := h'.unansweredOrder ∘ h.unansweredOrder
  unansweredBound := h'.unansweredBound ∘ h.unansweredBound
  slotsDistinct := h'.slotsDistinct ∘ h.slotsDistinct
  slotsCounted := h'.slotsCounted ∘ h.slotsCounted
  filter := h'.filter ∘ h.filter
  timing := h'.timing ∘ h.timing
  regions := h'.regions ∘ h.regions
  configs := h'.configs ∘ h.configs
  sweeps := h'.sweeps ∘ h.sweeps
  ids := h'.ids ∘ h.ids

/-! ### The hold queue and the response lists -/

/-- The law of an order by arrival goes on to any list whose arrivals are some of those before, in the same order. -/
theorem pairwise_lt_of_sublist_map {α β : Type} {f : α → Nat} {g : β → Nat} {l : List α} {m : List β}
    (hsub : (m.map g).Sublist (l.map f)) (h : l.Pairwise fun x y => f x < f y) : m.Pairwise fun x y => g x < g y := by
  rw [← List.pairwise_map (f := g) (R := (· < ·))]
  exact (List.pairwise_map.2 h).sublist hsub

theorem forall_lt_of_sublist_map {α β : Type} {f : α → Nat} {g : β → Nat} {l : List α} {m : List β} {n : Nat}
    (hsub : (m.map g).Sublist (l.map f)) (h : ∀ x ∈ l, f x < n) : ∀ y ∈ m, g y < n := by
  intro y hy
  obtain ⟨x, hx, he⟩ := List.mem_map.1 (hsub.subset (List.mem_map_of_mem hy))
  rw [← he]
  exact h x hx

/-- A hold queue whose arrivals are some of those before, in the same order, keeps the laws. -/
theorem LawsKept.of_hold (s : State) {hold : List Entry}
    (hsub : (hold.map (·.arrival)).Sublist (s.hold.map (·.arrival))) : LawsKept s { s with hold := hold } where
  places h := by
    have hlen := hsub.length_le
    simp only [List.length_map] at hlen
    exact (Nat.add_le_add_right hlen _).trans h
  holdOrder h := ⟨pairwise_lt_of_sublist_map hsub h.1, forall_lt_of_sublist_map hsub h.2⟩

/-- Response lists whose arrivals are some of those before, in the same order, keep the laws. -/
theorem LawsKept.of_unanswered (s : State) {unanswered : List Unanswered}
    (hsub : (unanswered.map (·.arrival)).Sublist (s.host.unanswered.map (·.arrival))) :
    LawsKept s { s with host := { s.host with unanswered := unanswered } } where
  unansweredOrder h := ⟨pairwise_lt_of_sublist_map hsub h.1, forall_lt_of_sublist_map hsub h.2⟩
  unansweredBound h := by
    have hlen := hsub.length_le
    simp only [List.length_map] at hlen
    exact (Nat.add_le_add_right hlen _).trans h

theorem State.setMark_laws (s : State) (a : Nat) (m : Mark) : LawsKept s (s.setMark a m) := by
  have same : (s.host.unanswered.map fun u => if u.arrival = a then { u with mark := m } else u).map (·.arrival) =
      s.host.unanswered.map (·.arrival) := by
    rw [List.map_map]
    refine List.map_congr_left fun u _ => ?_
    dsimp only [Function.comp_apply]
    split <;> rfl
  exact .of_unanswered s (same ▸ List.Sublist.refl _)

theorem State.dropEntry_laws (s : State) (a : Nat) : LawsKept s (s.dropEntry a) :=
  .of_hold s (List.filter_sublist.map _)

theorem State.rewrite_laws (s : State) (g : Entry → Entry) (hg : ∀ x, (g x).arrival = x.arrival) :
    LawsKept s { s with hold := s.hold.map g } := by
  have same : (s.hold.map g).map (·.arrival) = s.hold.map (·.arrival) := by
    rw [List.map_map]
    exact List.map_congr_left fun x _ => hg x
  exact .of_hold s (same ▸ List.Sublist.refl _)

theorem State.dropUnanswered_laws (s : State) (a : Nat) : LawsKept s (s.dropUnanswered a) :=
  .of_unanswered s (List.filter_sublist.map _)

theorem State.setUp_laws (s : State) (dir : Dir) (u : Upstream) : LawsKept s (s.setUp dir u) := by
  cases dir <;> exact {}

theorem State.takesAddress_iff (s : State) : s.takesAddress = true ↔
    s.hold.length + s.host.kept.length < 32 ∧ s.host.unanswered.length + s.host.kept.length < 64 := by
  simp only [State.takesAddress, State.hasRoom, Bool.and_eq_true, decide_eq_true_eq]
  exact Iff.rfl

theorem State.keep_laws (s : State) (h : Header) (ht : s.takesAddress = true) :
    LawsKept s { s with host := { s.host with kept := s.host.kept ++ [h] } } := by
  obtain ⟨hroom, hlimit⟩ := s.takesAddress_iff.1 ht
  exact {
    places := fun _ => by
      simp only [State.PlacesBounded, Config.holdPlaces, List.length_append, List.length_singleton]
      omega
    unansweredBound := fun _ => by
      simp only [State.UnansweredBounded, Config.maxUnanswered, List.length_append, List.length_singleton]
      omega }

/-! ### An acceptance -/

/-- What the port knows of a request that it takes: a place for it, and a place in the response lists (R1, R86). -/
theorem State.Presents.room {s u : State} {q : Request} {c : Instr} (h : s.Presents q c u) :
    (s.PlacesBounded → u.hold.length + u.host.kept.length < 32) ∧
      (s.UnansweredBounded → u.host.unanswered.length + u.host.kept.length < 64) ∧
      ∃ kept, u = { s with host := { s.host with kept := kept } } := by
  unfold State.Presents at h
  split at h
  · obtain ⟨-, -, ht, rfl⟩ := h
    obtain ⟨hroom, hlimit⟩ := u.takesAddress_iff.1 ht
    exact ⟨fun _ => hroom, fun _ => hlimit, u.host.kept, rfl⟩
  · obtain ⟨-, -, rest, hkept, rfl⟩ := h
    refine ⟨fun hp => ?_, fun hb => ?_, rest, rfl⟩
    · simp only [State.PlacesBounded, Config.holdPlaces, hkept, List.length_cons] at hp
      dsimp only
      omega
    · simp only [State.UnansweredBounded, Config.maxUnanswered, hkept, List.length_cons] at hb
      dsimp only
      omega

/-- The place that a request takes in the response lists keeps the laws if there is room (R1, R19). -/
theorem State.entered_laws {s u : State} {q : Request} {c : Instr} (h : s.Presents q c u) :
    LawsKept s (u.entered q .held) := by
  obtain ⟨hroom, hlimit, kept, he⟩ := h.room
  subst he
  exact {
    places := fun hp => Nat.le_of_lt (hroom hp)
    holdOrder := fun ⟨ho, hn⟩ => ⟨ho, fun e hm => Nat.lt_succ_of_lt (hn e hm)⟩
    unansweredOrder := fun ⟨ho, hn⟩ => by
      refine ⟨List.pairwise_append.2 ⟨ho, List.pairwise_singleton _ _, fun x hx y hy => ?_⟩, fun x hx => ?_⟩
      · rw [List.mem_singleton.1 hy]
        exact hn x hx
      · rcases List.mem_append.1 hx with hx | hx
        · exact Nat.lt_succ_of_lt (hn x hx)
        · rw [List.mem_singleton.1 hx]
          exact Nat.lt_succ_self _
    unansweredBound := fun hb => by
      have := hlimit hb
      simp only [State.UnansweredBounded, Config.maxUnanswered, State.entered, List.length_append, List.length_singleton]
      dsimp only at this
      omega }

/-! ### The domain records -/

theorem State.domain_laws (s : State) (d : DomId) (y : Domain) (hc : y.config = (s.dom d).config)
    (hs : y.slotsInUse = (s.dom d).slotsInUse) : LawsKept s (s.setDom d y) where
  slotsCounted h o := by
    have := h o
    rw [State.setDom_dom]
    split
    · next ho => subst ho; rw [hs]; exact this
    · exact this
  configs h o := by
    have := h o
    rw [State.setDom_dom]
    split
    · next ho => subst ho; rw [hc]; exact this
    · exact this

theorem State.counters_laws (s : State) (d : DomId) (cs : Vector Count 12) :
    LawsKept s (s.setDom d { s.dom d with counters := cs }) := s.domain_laws d _ rfl rfl

theorem State.count_laws (s : State) (d : DomId) (c : Counter) (n : Nat) : LawsKept s (s.count d c n) := by
  obtain ⟨cs, flags, h⟩ := s.count_eq d c n
  rw [h]
  exact (s.counters_laws d cs).trans {}

/-- What the first check of SET_DOMAIN lets through is a legal configuration (R23). -/
theorem configOf_legal {base anchor : Addr} {capacity mark : BitVec 32} {flags : Byte} {c : DomainConfig}
    (hc : configOf base capacity anchor flags mark = some c) : c.Legal := by
  unfold configOf at hc
  cases hp : policyOfCode (flags.toNat % 4) with
  | none => rw [hp] at hc; cases hc
  | some p =>
    rw [hp] at hc
    dsimp only at hc
    generalize hmode : (if flags.getLsbD 2 = true then CounterMode.saturate else .wrap) = mode at hc
    rw [Option.ite_none_right_eq_some] at hc
    obtain ⟨hlegal, hc⟩ := hc
    injection hc with hc
    subst hc
    simp only [Bool.and_eq_true, decide_eq_true_eq, Bool.not_eq_true'] at hlegal
    obtain ⟨⟨⟨⟨⟨⟨⟨⟨h1, h2⟩, h3⟩, h4⟩, h5⟩, h6⟩, h7⟩, h8⟩, h9⟩ := hlegal
    exact .inr ⟨h1, h2, h3, h4, h5, h6, h7, h8, h9⟩

theorem State.config_laws (s : State) (d : DomId) {base anchor : Addr} {capacity mark : BitVec 32} {flags : Byte}
    {c : DomainConfig} (hc : configOf base capacity anchor flags mark = some c) :
    LawsKept s (s.updDom d fun x => { x with config := c }) where
  slotsCounted h o := by
    have := h o
    rw [State.updDom_dom]
    split
    · next ho => subst ho; exact this
    · exact this
  configs h o := by
    rw [State.updDom_dom]
    split
    · exact configOf_legal hc
    · exact h o

/-! ### The capture slots -/

/-- A change of slots' contents that leaves what the laws of the slots read keeps them. -/
theorem State.setSlot_laws (s : State) (k : SlotId) (x : Slot) (hd : x.domain = (s.slot k).domain)
    (hl : x.line = (s.slot k).line) (hst : (x.state = .free) ↔ ((s.slot k).state = .free)) :
    LawsKept s (s.setSlot k x) := by
  have read : ∀ j, ((s.setSlot k x).slot j).domain = (s.slot j).domain ∧ ((s.setSlot k x).slot j).line = (s.slot j).line ∧
      (((s.setSlot k x).slot j).state = .free ↔ (s.slot j).state = .free) := by
    intro j
    rw [State.setSlot_slot]
    split
    · next hj => subst hj; exact ⟨hd, hl, hst⟩
    · exact ⟨rfl, rfl, Iff.rfl⟩
  exact {
    slotsDistinct := fun h i j hne hi hj => by
      obtain ⟨-, hli, hsi⟩ := read i
      obtain ⟨-, hlj, hsj⟩ := read j
      rw [hli, hlj]
      exact h i j hne (mt hsi.2 hi) (mt hsj.2 hj)
    slotsCounted := fun h d => by
      have busy : (s.setSlot k x).busySlots d = s.busySlots d := by
        refine List.filter_congr fun j _ => ?_
        obtain ⟨hdj, -, hsj⟩ := read j
        rw [hdj]
        simp only [ne_eq, hsj]
      rw [busy]
      exact h d }

/-- The slots of a domain that are not FREE, as a finite set. -/
theorem State.busySlots_length (s : State) (d : DomId) :
    (s.busySlots d).length = (Finset.univ.filter fun k => (s.slot k).state ≠ .free ∧ (s.slot k).domain = d).card := by
  have hset : (Finset.univ.filter fun k => (s.slot k).state ≠ .free ∧ (s.slot k).domain = d) =
      (s.busySlots d).toFinset := by
    ext k
    simp [State.busySlots]
  have hnodup : (s.busySlots d).Nodup := allSlots_nodup.filter _
  rw [hset, List.toFinset_card_of_nodup hnodup]

/-- A slot that takes a line of a domain counts in that domain only. -/
theorem State.busySlots_setSlot_busy (s : State) (k : SlotId) (x : Slot) (hfree : (s.slot k).state = .free)
    (hbusy : x.state ≠ .free) (o : DomId) :
    ((s.setSlot k x).busySlots o).length = (s.busySlots o).length + if o = x.domain then 1 else 0 := by
  rw [State.busySlots_length, State.busySlots_length]
  split
  · next ho =>
    rw [← Finset.card_insert_of_notMem (s := Finset.univ.filter _) (a := k) (by simp [hfree])]
    congr 1
    ext j
    by_cases hj : j = k
    · subst hj; simp [hbusy, ho]
    · simp [State.setSlot_slot_of_ne _ _ _ _ hj, hj]
  · next ho =>
    rw [Nat.add_zero]
    congr 1
    ext j
    by_cases hj : j = k
    · subst hj
      have : x.domain ≠ o := Ne.symm ho
      simp [hfree, this]
    · simp [State.setSlot_slot_of_ne _ _ _ _ hj]

/-- A slot that becomes FREE counts no more in its domain. -/
theorem State.busySlots_setSlot_free (s : State) (k : SlotId) (x : Slot) (hbusy : (s.slot k).state ≠ .free)
    (hfree : x.state = .free) (o : DomId) :
    (s.busySlots o).length = ((s.setSlot k x).busySlots o).length + if o = (s.slot k).domain then 1 else 0 := by
  rw [State.busySlots_length, State.busySlots_length]
  split
  · next ho =>
    rw [← Finset.card_insert_of_notMem (s := Finset.univ.filter _) (a := k) (by simp [hfree])]
    congr 1
    ext j
    by_cases hj : j = k
    · subst hj; simp [hbusy, ho]
    · simp [State.setSlot_slot_of_ne _ _ _ _ hj, hj]
  · next ho =>
    rw [Nat.add_zero]
    congr 1
    ext j
    by_cases hj : j = k
    · subst hj
      have : (s.slot j).domain ≠ o := Ne.symm ho
      simp [hfree, this]
    · simp [State.setSlot_slot_of_ne _ _ _ _ hj]

theorem State.freeSlot_slot (s : State) (k j : SlotId) : (s.freeSlot k).slot j =
    if j = k then { s.slot k with state := .free, deadline := none } else s.slot j := by
  unfold State.freeSlot
  rw [State.updDom_slot, State.setSlot_slot]

theorem State.freeSlot_busySlots (s : State) (k : SlotId) (o : DomId) : (s.freeSlot k).busySlots o =
    (s.setSlot k { s.slot k with state := .free, deadline := none }).busySlots o := rfl

theorem State.freeSlot_laws (s : State) (k : SlotId) (hk : (s.slot k).state ≠ .free) : LawsKept s (s.freeSlot k) where
  slotsDistinct h i j hne hi hj := by
    have still : ∀ i, ((s.freeSlot k).slot i).state ≠ .free → (s.freeSlot k).slot i = s.slot i := by
      intro i hi
      rw [State.freeSlot_slot] at hi ⊢
      split at hi
      · exact absurd rfl hi
      · next hne => rw [if_neg hne]
    have hsi := still i hi
    have hsj := still j hj
    rw [hsi] at hi ⊢
    rw [hsj] at hj ⊢
    exact h i j hne hi hj
  slotsCounted h o := by
    have hcount := s.busySlots_setSlot_free k { s.slot k with state := .free, deadline := none } hk rfl o
    rw [← State.freeSlot_busySlots, ← h o] at hcount
    unfold State.freeSlot at hcount ⊢
    rw [State.updDom_dom]
    split
    · next ho =>
      rw [ho, if_pos rfl] at hcount
      rw [ho]
      simp only [State.setSlot_dom] at hcount ⊢
      omega
    · next ho =>
      rw [if_neg ho] at hcount
      simpa using hcount
  configs h o := by
    have := h o
    unfold State.freeSlot
    rw [State.updDom_dom]
    split
    · next ho => subst ho; exact this
    · exact this

/-! ### Allocations -/

theorem State.underCapture_iff (s : State) (l : Line) :
    s.underCapture l = true ↔ ∃ k, (s.slot k).state ≠ .free ∧ (s.slot k).line = l := by
  simp [State.underCapture]

theorem State.underCapture_eq_false_iff (s : State) (l : Line) :
    s.underCapture l = false ↔ ∀ k, (s.slot k).state ≠ .free → (s.slot k).line ≠ l := by
  rw [← Bool.not_eq_true, State.underCapture_iff]
  push Not
  rfl

/-- One slot of an allocation: a line that is under no capture keeps the slots distinct, and only it is under capture
besides. -/
theorem State.fillSlot_distinct {s : State} {d : DomId} {region : Fin 16} {k : SlotId} {l : Line} {p : Nat}
    (hs : s.SlotsDistinct) (hl : s.underCapture l = false) : (s.fillSlot d region k l p).SlotsDistinct := by
  rw [State.underCapture_eq_false_iff] at hl
  intro i j hne hi hj
  rw [State.fillSlot_slot] at hi hj ⊢
  rw [State.fillSlot_slot]
  split at hi <;> split at hj <;> simp only [*, if_true, if_false]
  · next hik hjk => exact absurd (hik.trans hjk.symm) hne
  · next hjk => exact fun hc => hl j hj hc.symm
  · next hik _ => exact hl i hi
  · exact hs i j hne hi hj

theorem State.fillSlot_underCapture {s : State} {d : DomId} {region : Fin 16} {k : SlotId} {l m : Line} {p : Nat}
    (hne : m ≠ l) (hm : s.underCapture m = false) : (s.fillSlot d region k l p).underCapture m = false := by
  rw [State.underCapture_eq_false_iff] at hm ⊢
  intro j hj
  rw [State.fillSlot_slot] at hj ⊢
  split
  · exact hne.symm
  · next hjk =>
    rw [if_neg hjk] at hj
    exact hm j hj

theorem State.fillSlot_busySlots (s : State) (d : DomId) (region : Fin 16) {k : SlotId} (l : Line) (p : Nat)
    (hfree : (s.slot k).state = .free) (o : DomId) :
    ((s.fillSlot d region k l p).busySlots o).length = (s.busySlots o).length + if o = d then 1 else 0 := by
  have := s.busySlots_setSlot_busy k (s.filledSlot d region (s.slot k) l p) hfree (by simp [State.filledSlot, State.allocatedSlot]) o
  rw [s.fillSlot_eq]
  exact this

/-- The slots of an allocation: distinct lines under no capture keep the slots distinct, and each counts once (R48, R65). -/
theorem State.fillSlots_slots (d : DomId) (region : Fin 16) (ks : List SlotId) :
    ∀ (s : State) (ls : List Line) (p : Nat), ks.Nodup → (∀ k ∈ ks, (s.slot k).state = .free) → ls.length ≤ ks.length →
      ls.Pairwise (· < ·) → (∀ l ∈ ls, s.underCapture l = false) →
      (s.SlotsDistinct → (s.fillSlots d region ks ls p).SlotsDistinct) ∧
        ∀ o, ((s.fillSlots d region ks ls p).busySlots o).length =
          (s.busySlots o).length + if o = d then ls.length else 0 := by
  induction ks with
  | nil =>
    intro s ls p _ _ hlen _ _
    obtain rfl : ls = [] := List.length_eq_zero_iff.1 (Nat.le_zero.1 hlen)
    exact ⟨id, fun o => by simp [State.fillSlots]⟩
  | cons k ks ih =>
    rintro s (_ | ⟨l, ls⟩) p hnodup hfree hlen hasc hclear
    · exact ⟨id, fun o => by simp [State.fillSlots]⟩
    · rw [List.nodup_cons] at hnodup
      rw [List.pairwise_cons] at hasc
      rw [State.fillSlots_cons]
      have hk := hfree k List.mem_cons_self
      have rest := ih (s.fillSlot d region k l p) ls (p + 1) hnodup.2 (fun j hj => ?_) (Nat.le_of_succ_le_succ hlen) hasc.2
        fun m hm => ?_
      · refine ⟨fun hs => rest.1 (State.fillSlot_distinct hs (hclear l List.mem_cons_self)), fun o => ?_⟩
        rw [rest.2 o, s.fillSlot_busySlots d region l p hk o, List.length_cons]
        split <;> omega
      · rw [State.fillSlot_slot, if_neg fun hjk : j = k => hnodup.1 (hjk ▸ hj)]
        exact hfree j (List.mem_cons_of_mem _ hj)
      · have hlt := hasc.1 m hm
        refine State.fillSlot_underCapture (fun hc => ?_) (hclear m (List.mem_cons_of_mem _ hm))
        rw [hc] at hlt
        exact BitVec.lt_irrefl _ hlt

theorem State.reserve_slots (s : State) (d : DomId) (n : Nat) : (s.reserve d n).slots = s.slots := by
  obtain ⟨_, _, h⟩ := s.reserve_eq d n
  rw [h]

theorem State.allocateSlots_laws (s : State) (d : DomId) (region : Fin 16) (lines : List Line)
    (ha : Allocatable s d lines) : LawsKept s (s.allocateSlots d region lines) := by
  have hslot : ∀ k, (s.reserve d lines.length).slot k = s.slot k := fun k => by
    rw [State.slot, State.slot, State.reserve_slots]
  have hbusy : ∀ o, (s.reserve d lines.length).busySlots o = s.busySlots o := fun o => by
    simp only [State.busySlots, hslot]
  have hdistinct : (s.reserve d lines.length).SlotsDistinct ↔ s.SlotsDistinct := by
    simp only [State.SlotsDistinct, hslot]
  obtain ⟨filledDistinct, filledCount⟩ := State.fillSlots_slots d region s.freeSlots (s.reserve d lines.length) lines
    (s.dom d).occupancy s.freeSlots_nodup (fun k hk => by rw [hslot]; exact (s.mem_freeSlots k).1 hk) ha.free
    ha.ascending fun l hl => by
      simp only [State.underCapture, hslot]
      exact ha.uncaptured l hl
  have hdom : ∀ o, ((s.allocateSlots d region lines).dom o).config = (s.dom o).config ∧
      ((s.allocateSlots d region lines).dom o).slotsInUse = (s.dom o).slotsInUse + if o = d then lines.length else 0 := by
    intro o
    rw [State.allocateSlots_dom]
    by_cases ho : o = d
    · subst ho
      obtain ⟨_, _, h⟩ := s.reserve_dom_self o lines.length
      rw [h, if_pos rfl]
      exact ⟨rfl, rfl⟩
    · rw [s.reserve_dom_of_ne ho, if_neg ho]
      exact ⟨rfl, rfl⟩
  have others : ∃ slots domains flags own, s.allocateSlots d region lines = { s with
      slots := slots, domains := domains, faults := { s.faults with flags := flags },
      mem := { s.mem with reads := { s.mem.reads with own := own } } } := s.allocateSlots_eq d region lines
  have counted : s.SlotsCounted → (s.allocateSlots d region lines).SlotsCounted := fun h o => by
    rw [(hdom o).2, h o, ← hbusy o]
    exact (filledCount o).symm
  have distinct : s.SlotsDistinct → (s.allocateSlots d region lines).SlotsDistinct := fun h => filledDistinct (hdistinct.2 h)
  have configs : s.ConfigsLegal → (s.allocateSlots d region lines).ConfigsLegal := fun h o => by
    rw [(hdom o).1]
    exact h o
  obtain ⟨slots, domains, flags, own, he⟩ := others
  rw [he] at counted distinct configs ⊢
  exact { slotsDistinct := distinct, slotsCounted := counted, configs := configs }

/-! ### The line filter -/

/-- A set of the filter may be replaced by one that meets the law by itself. -/
theorem State.setFilterSet_laws (s : State) (i : Fin 512) (f : FilterSet)
    (hindex : s.FilterUnique → ∀ w : Fin 4, f.ways[w].valid = true → setIndex f.ways[w].line = i)
    (hunique : s.FilterUnique → ∀ v w : Fin 4, v ≠ w → f.ways[v].valid = true → f.ways[w].valid = true →
      ¬(f.ways[v].domain = f.ways[w].domain ∧ f.ways[v].line = f.ways[w].line)) : LawsKept s (s.setFilterSet i f) where
  filter h j := by
    by_cases hj : j = i
    · subst hj
      rw [State.setFilterSet_filterSet_self]
      exact ⟨hindex h, hunique h⟩
    · rw [State.setFilterSet_filterSet_of_ne _ _ _ _ hj]
      exact h j

theorem FilterSet.set_way (f : FilterSet) (v w : Fin 4) (e : FilterEntry) :
    (f.ways.set v e)[w] = if w = v then e else f.ways[w] := by
  by_cases h : w = v
  · subst h; simp
  · rw [if_neg h]
    exact Vector.getElem_set_ne _ _ fun hc => h (Fin.ext hc.symm)

/-- An entry put into a way whose pair no other valid way of the set holds keeps the law (R73, R76). -/
theorem State.putWay_laws (s : State) (l : Line) (v p : Fin 4) (e : FilterEntry) (hl : e.line = l)
    (hother : ∀ w : Fin 4, w ≠ v → (s.filterSet (setIndex l)).ways[w].valid = true →
      ¬((s.filterSet (setIndex l)).ways[w].domain = e.domain ∧ (s.filterSet (setIndex l)).ways[w].line = l)) :
    LawsKept s (s.setFilterSet (setIndex l) { ways := (s.filterSet (setIndex l)).ways.set v e, pointer := p }) := by
  refine s.setFilterSet_laws _ _ (fun h w hw => ?_) fun h x y hne hx hy => ?_
  · dsimp only at hw ⊢
    rw [FilterSet.set_way] at hw ⊢
    split
    · rw [hl]
    · next hwv =>
      rw [if_neg hwv] at hw
      exact (h _).1 w hw
  · dsimp only at hx hy ⊢
    rw [FilterSet.set_way] at hx hy
    rw [FilterSet.set_way, FilterSet.set_way]
    by_cases hxv : x = v
    · rw [if_pos hxv, if_neg fun hyv => hne (hxv.trans hyv.symm)]
      rw [if_neg fun hyv => hne (hxv.trans hyv.symm)] at hy
      rw [hl]
      exact fun ⟨hd, hln⟩ => hother y (fun hyv => hne (hxv.trans hyv.symm)) hy ⟨hd.symm, hln.symm⟩
    · rw [if_neg hxv] at hx ⊢
      by_cases hyv : y = v
      · rw [if_pos hyv, hl]
        exact hother x hxv hx
      · rw [if_neg hyv] at hy ⊢
        exact (h _).2 x y hne hx hy

theorem presentWay_some {f : FilterSet} {d : DomId} {l : Line} {w : Fin 4} (h : presentWay f d l = some w) :
    f.ways[w].valid = true ∧ f.ways[w].domain = d ∧ f.ways[w].line = l := by
  have := List.find?_some h
  simpa [and_assoc] using this

theorem presentWay_none {f : FilterSet} {d : DomId} {l : Line} (h : presentWay f d l = none) (w : Fin 4)
    (hw : f.ways[w].valid = true) : ¬(f.ways[w].domain = d ∧ f.ways[w].line = l) := by
  have := List.find?_eq_none.1 h w (mem_allWays w)
  simp only [Bool.and_eq_true, decide_eq_true_eq] at this
  exact fun ⟨hd, hl⟩ => this ⟨⟨hw, hd⟩, hl⟩

theorem State.filterInsert_laws (s : State) (d : DomId) (l : Line) (parity : Bool) :
    LawsKept s (s.filterInsert d l parity) := by
  unfold State.filterInsert
  dsimp only
  split
  · next w hw =>
    obtain ⟨hvalid, hdomain, hline⟩ := presentWay_some hw
    refine { filter := fun h => (s.putWay_laws l w _ _ rfl fun v hne hv hpair => ?_).filter h }
    refine (h (setIndex l)).2 v w hne hv hvalid ?_
    rw [hdomain, hline]
    exact hpair
  · next hnone =>
    split
    · next w _ => exact s.putWay_laws l w _ _ rfl fun v _ hv => presentWay_none hnone v hv
    · exact (s.putWay_laws l (s.filterSet (setIndex l)).pointer _ _ rfl fun v _ hv => presentWay_none hnone v hv).trans
        (State.count_laws _ _ _ _)

theorem State.visitSet_laws (s : State) (d : DomId) (i : Fin 512) : LawsKept s (s.visitSet d i) := by
  have swept : ∀ e, (s.sweptEntry d e).domain = e.domain ∧ (s.sweptEntry d e).line = e.line ∧
      ((s.sweptEntry d e).valid = true → e.valid = true) := by
    intro e
    unfold State.sweptEntry
    split
    · exact ⟨rfl, rfl, nofun⟩
    · exact ⟨rfl, rfl, id⟩
  have way : ∀ w : Fin 4, ((s.filterSet i).ways.map (s.sweptEntry d))[w] = s.sweptEntry d (s.filterSet i).ways[w] := by
    intro w
    rw [Fin.getElem_fin, Vector.getElem_map]
    rfl
  refine s.setFilterSet_laws i _ (fun h w hw => ?_) fun h v w hne hv hw => ?_
  · dsimp only at hw ⊢
    rw [way] at hw ⊢
    obtain ⟨-, hl, hval⟩ := swept (s.filterSet i).ways[w]
    rw [hl]
    exact (h i).1 w (hval hw)
  · dsimp only at hv hw ⊢
    rw [way] at hv hw
    rw [way, way]
    obtain ⟨hdv, hlv, hvalv⟩ := swept (s.filterSet i).ways[v]
    obtain ⟨hdw, hlw, hvalw⟩ := swept (s.filterSet i).ways[w]
    rw [hdv, hlv, hdw, hlw]
    exact (h i).2 v w hne (hvalv hv) (hvalw hw)

/-! ### The sweep engine -/

theorem State.requestSweep_laws (s : State) (d : DomId) : LawsKept s (s.requestSweep d) := by
  rw [State.requestSweep_eq]
  refine { sweeps := fun ⟨hnodup, hrun⟩ => ?_ }
  unfold requested
  split
  · next hnone =>
    rw [hnone] at hrun
    dsimp only at hrun
    exact ⟨hnodup, by simp [hrun], by simp [sweepFrom, Config.filterSets], by simp [sweepFrom]⟩
  · next r hr =>
    rw [hr] at hrun
    obtain ⟨hout, hlow, hhigh⟩ := hrun
    split
    · exact ⟨hnodup, hout, by simp [Config.filterSets], le_rfl⟩
    · next hne =>
      split
      · refine ⟨hnodup, ?_⟩
        dsimp only
        rw [hr]
        exact ⟨hout, hlow, hhigh⟩
      · next hmem =>
        refine ⟨List.nodup_append.2 ⟨hnodup, List.nodup_singleton d, fun a ha b hb => ?_⟩, ?_⟩
        · rw [List.mem_singleton.1 hb]
          exact fun hc => hmem (hc ▸ ha)
        · dsimp only
          rw [hr]
          exact ⟨by simp [hout, hne], hlow, hhigh⟩

/-- What hand-overs write is read by none of the laws, and of the slots by no law. -/
theorem HandedFrom.laws {s t : State} (h : HandedFrom s t) : LawsKept s t := by
  obtain ⟨hslot, hdom, reads, writes, walk, he⟩ := h
  have slot : ∀ k, (t.slot k).state = (s.slot k).state ∧ (t.slot k).line = (s.slot k).line ∧
      (t.slot k).domain = (s.slot k).domain := by
    intro k
    obtain ⟨_, _, hk⟩ := hslot k
    rw [hk]
    exact ⟨rfl, rfl, rfl⟩
  have dom : ∀ d, (t.dom d).config = (s.dom d).config ∧ (t.dom d).slotsInUse = (s.dom d).slotsInUse := by
    intro d
    obtain ⟨_, hd⟩ := hdom d
    rw [hd]
    exact ⟨rfl, rfl⟩
  have distinct : s.SlotsDistinct → t.SlotsDistinct := fun h i j hne hi hj => by
    rw [(slot i).1] at hi
    rw [(slot j).1] at hj
    rw [(slot i).2.1, (slot j).2.1]
    exact h i j hne hi hj
  have counted : s.SlotsCounted → t.SlotsCounted := fun h d => by
    have busy : t.busySlots d = s.busySlots d := by
      refine List.filter_congr fun k _ => ?_
      obtain ⟨hst, -, hd⟩ := slot k
      rw [hst, hd]
    rw [(dom d).2, busy]
    exact h d
  have configs : s.ConfigsLegal → t.ConfigsLegal := fun h d => by
    rw [(dom d).1]
    exact h d
  rw [he] at distinct counted configs ⊢
  exact { slotsDistinct := distinct, slotsCounted := counted, configs := configs }

/-- Hand-overs between the end of a sweep and the start of the next leave the law of the sweep engine to the engine that
starts. -/
theorem LawsKept.sweepEnded {s v r : State} {idle next : Sweeper} (h : LawsKept s v)
    (hr : HandedFrom { v with sweep := idle } r) (hnext : s.SweepsOrdered → { r with sweep := next }.SweepsOrdered) :
    LawsKept s { r with sweep := next } where
  places := hr.laws.places ∘ h.places
  holdOrder := hr.laws.holdOrder ∘ h.holdOrder
  unansweredOrder := hr.laws.unansweredOrder ∘ h.unansweredOrder
  unansweredBound := hr.laws.unansweredBound ∘ h.unansweredBound
  slotsDistinct := hr.laws.slotsDistinct ∘ h.slotsDistinct
  slotsCounted := hr.laws.slotsCounted ∘ h.slotsCounted
  filter := hr.laws.filter ∘ h.filter
  timing := hr.laws.timing ∘ h.timing
  regions := hr.laws.regions ∘ h.regions
  configs := hr.laws.configs ∘ h.configs
  sweeps := hnext
  ids := hr.laws.ids ∘ h.ids

/-- A visit of the running sweep keeps the laws: of the sweep engine, by whether it is the last (R79, R80). -/
theorem State.sweepStep_laws (s : State) (r : RunningSweep) (hr : s.sweep.running = some r) : LawsKept s (s.sweepStep r) := by
  have visited := s.visitSet_laws r.domain r.next
  rcases Nat.lt_or_ge 1 r.left with hmore | hlast
  · rw [s.sweepStep_goes_on hmore]
    refine visited.trans { sweeps := fun ⟨hnodup, hrun⟩ => ?_ }
    simp only [State.visitSet, State.setFilterSet_sweep, hr] at hnodup hrun
    obtain ⟨hout, -, hhigh⟩ := hrun
    exact ⟨hnodup, hout, by dsimp only; omega, by dsimp only; omega⟩
  · rw [s.sweepStep_ends hlast]
    refine visited.sweepEnded (State.releaseHeld_handed _) fun ⟨hnodup, hrun⟩ => ?_
    rw [hr] at hrun
    unfold nextSweep
    dsimp only
    split
    · exact ⟨List.nodup_nil, rfl⟩
    · next d rest hq =>
      rw [hq, List.nodup_cons] at hnodup
      exact ⟨hnodup.2, hnodup.1, by simp [sweepFrom, Config.filterSets], by simp [sweepFrom]⟩

/-! ### Settings and IDs -/

theorem State.clock_laws (s : State) (n : Nat) (tick : Ticks) (hn : n = 0 ∨ n < s.time.tickDiv) :
    LawsKept s { s with time := { s.time with divCount := n, tick := tick } } where
  timing := fun ⟨h1, h2, _, h4, h5⟩ => ⟨h1, h2, by dsimp only; omega, h4, h5⟩

theorem State.times_laws (s : State) (a b c : BitVec 16) (hst : s.timingStatus a c = .ok) :
    LawsKept s (s.setTimes a.toNat b.toNat c.toNat) where
  timing := fun _ => by
    have hin : TimingInRange a c := by
      by_contra hout
      rw [s.timingStatus_arg hout] at hst
      cases hst
    obtain ⟨hlow, hhigh, hmem⟩ := hin
    exact ⟨hlow, hhigh, hlow, Nat.le_of_lt_succ (show b.toNat < 65536 from b.isLt), hmem⟩

/-- What the argument checks of SET_REGION let through is a legal entry (R10). -/
theorem regionOf_legal {flags : Byte} {base : Addr} {pages : BitVec 32} {r : Region}
    (h : regionOf flags base pages = some r) :
    (r.valid = true → r.base.toNat % Config.pageBytes = 0 ∧ 1 ≤ r.pages ∧ r.pages ≤ 2 ^ 28 ∧
      r.base.toNat + r.pages * Config.pageBytes ≤ Config.addressSpace) ∧ (r.valid = false → r = Region.reset) := by
  unfold regionOf at h
  split at h
  · split at h
    · cases h
    · split at h
      · next hlegal =>
        injection h with h
        subst h
        simp only [Bool.and_eq_true, decide_eq_true_eq] at hlegal
        obtain ⟨⟨⟨h1, h2⟩, h3⟩, h4⟩ := hlegal
        exact ⟨fun _ => ⟨h1, h2, h3, h4⟩, nofun⟩
      · cases h
  · injection h with h
    subst h
    exact ⟨nofun, fun _ => rfl⟩

theorem State.region_laws (s : State) (i : Fin 16) {flags : Byte} {base : Addr} {pages : BitVec 32} {r : Region}
    (hr : regionOf flags base pages = some r) : LawsKept s (s.setRegion i r) where
  regions h j := by
    have hj : (s.setRegion i r).regions[j] = if j = i then r else s.regions[j] := by
      by_cases hji : j = i
      · subst hji; simp [State.setRegion]
      · rw [if_neg hji]
        exact Vector.getElem_set_ne i.isLt j.isLt fun hc => hji (Fin.ext hc.symm)
    rw [hj]
    split
    · exact regionOf_legal hr
    · exact h j

/-- A direction of the memory-side port replaced keeps the laws if its downstream IDs stay distinct. -/
theorem State.setSide_laws (s : State) (dir : Dir) (m : MemSide) (hm : (s.side dir).IdsDistinct → m.IdsDistinct) :
    LawsKept s (s.setSide dir m) := by
  cases dir
  · exact { ids := fun ⟨hr, hw⟩ => ⟨hm hr, hw⟩ }
  · exact { ids := fun ⟨hr, hw⟩ => ⟨hr, hm hw⟩ }

/-- The IDs stay distinct while accesses give theirs back or are marked. -/
theorem MemSide.IdsDistinct.of_sublist {m n : MemSide} (h : m.IdsDistinct)
    (hsub : (n.issuedOwn.map (·.id)).Sublist (m.issuedOwn.map (·.id))) : n.IdsDistinct := by
  refine ⟨h.1.sublist hsub, fun i hi => ?_⟩
  obtain ⟨j, hj, he⟩ := List.mem_map.1 (hsub.subset (List.mem_map_of_mem hi))
  rw [← he]
  exact h.2 j hj

theorem State.freeId_laws (s : State) (dir : Dir) (id : DownId) : LawsKept s (s.freeId dir id) :=
  s.setSide_laws dir _ fun h => h.of_sublist (List.filter_sublist.map _)

theorem State.timeOutOwn_laws (s : State) (dir : Dir) (p : OwnAccess → Bool) : LawsKept s (s.timeOutOwn dir p) := by
  have same : ((s.side dir).issuedOwn.map fun i =>
      if !i.timedOut && p i.access then { i with timedOut := true } else i).map (·.id) =
      (s.side dir).issuedOwn.map (·.id) := by
    rw [List.map_map]
    refine List.map_congr_left fun i _ => ?_
    dsimp only [Function.comp_apply]
    split <;> rfl
  exact s.setSide_laws dir _ fun h => h.of_sublist (same ▸ List.Sublist.refl _)

theorem idFree_iff (m : MemSide) (id : DownId) :
    idFree m id = true ↔ 16 ≤ id.toNat ∧ ∀ i ∈ m.issuedOwn, i.id ≠ id := by
  simp only [idFree, Bool.and_eq_true, decide_eq_true_eq, List.all_eq_true]
  exact Iff.rfl

theorem issueHead_idsDistinct (m : MemSide) (id : DownId) (turn : Turn) (h : m.IdsDistinct) :
    (issueHead m id turn).IdsDistinct := by
  unfold issueHead
  split
  · split
    · exact h
    · exact h
  · split
    · split
      · next hfree =>
        obtain ⟨hown, hnew⟩ := (idFree_iff m id).1 hfree
        refine ⟨?_, fun i hi => ?_⟩
        · rw [List.map_append, List.nodup_append]
          refine ⟨h.1, List.nodup_singleton id, fun a ha b hb => ?_⟩
          obtain ⟨i, hi, rfl⟩ := List.mem_map.1 ha
          rw [List.mem_singleton.1 hb]
          exact hnew i hi
        · rcases List.mem_append.1 hi with hi | hi
          · exact h.2 i hi
          · rw [List.mem_singleton.1 hi]
            exact hown
      · exact h
    · exact h

/-! ### Every step -/

/-- An entry added at the tail is counted besides (R88). -/
theorem State.enqueueEntry_laws {s t : State} {e : Entry}
    (h : LawsKept s { t with hold := t.hold ++ [{ e with deadline := t.deadlineIn t.time.holdTimeout }] }) :
    LawsKept s (t.enqueueEntry e) := by
  unfold State.enqueueEntry
  dsimp only
  split
  · exact h.trans (State.count_laws _ _ _ _)
  · exact h

theorem lawsKept_closed : Closed LawsKept where
  refl := .refl
  trans := .trans
  raise _ _ := {}
  enqueueFault s r := by
    obtain ⟨_, _, _, h⟩ := s.enqueueFault_eq r
    rw [h]
    exact {}
  countGlobal _ _ := {}
  domain s d y h := s.domain_laws d y h.config h.slots
  requestSweep := State.requestSweep_laws
  setMark := State.setMark_laws
  dropEntry := State.dropEntry_laws
  rewrite := State.rewrite_laws
  forward s dir _ := s.setSide_laws dir _ id
  handOver s a := s.setSide_laws a.dir _ id
  freeId := State.freeId_laws
  timeOutOwn := State.timeOutOwn_laws
  handed s k _ _ := s.setSlot_laws k _ rfl rfl Iff.rfl
  filled s k _ _ hk := s.setSlot_laws k _ rfl rfl (by simp [hk])
  freeSlot := State.freeSlot_laws
  allocate := State.allocateSlots_laws
  insert := State.filterInsert_laws
  walk _ _ := {}
  waiting _ _ := {}

/-- An acceptance keeps the laws: the port takes a request only with a place for it (R1, R19, R85, R86). -/
theorem State.accept_laws {s u : State} {q : Request} {c : Instr} (h : s.Presents q c u) : LawsKept s (u.accept q) := by
  have entered := State.entered_laws h
  obtain ⟨hroom, -, kept, hu⟩ := h.room
  rcases u.accept_cases q with hm | ⟨t, f, hm, hf, hhold, hhost, he⟩
  · exact entered.trans (hm _ lawsKept_closed)
  · have moved := entered.trans (hm _ lawsKept_closed)
    rw [he]
    refine State.enqueueEntry_laws (LawsKept.mk (t := { t with hold := t.hold ++ [_] }) ?_ ?_ moved.unansweredOrder
      moved.unansweredBound moved.slotsDistinct moved.slotsCounted moved.filter moved.timing moved.regions moved.configs
      moved.sweeps moved.ids)
    · intro hp
      have := hroom hp
      simp only [State.PlacesBounded, Config.holdPlaces, hhold, hhost, State.entered, List.length_append,
        List.length_singleton]
      omega
    · intro ho
      have hbelow : ∀ e ∈ u.hold, e.arrival < u.host.nextArrival := by
        rw [hu]
        exact ho.2
      have hpair : u.hold.Pairwise fun x y => x.arrival < y.arrival := by
        rw [hu]
        exact ho.1
      simp only [State.HoldOrdered, hhold, hhost, State.entered]
      refine ⟨List.pairwise_append.2 ⟨hpair, List.pairwise_singleton _ _, fun x hx y hy => ?_⟩, fun e he => ?_⟩
      · rw [List.mem_singleton.1 hy]
        dsimp only
        rw [hf]
        exact hbelow x hx
      · rcases List.mem_append.1 he with he | he
        · exact Nat.lt_succ_of_lt (hbelow e he)
        · rw [List.mem_singleton.1 he]
          dsimp only
          rw [hf]
          exact Nat.lt_succ_self _

theorem lawsKept_outerClosed : OuterClosed LawsKept where
  refl := .refl
  trans := .trans
  ports _ _ _ _ _ _ := {}
  counters := State.counters_laws
  handed := HandedFrom.laws
  keep := State.keep_laws
  issue s dir id turn := s.setSide_laws dir _ (issueHead_idsDistinct _ id turn)
  dropIssued s dir _ := s.setSide_laws dir _ id
  setUp := State.setUp_laws
  dropUnanswered := State.dropUnanswered_laws
  sweepStep := State.sweepStep_laws
  clock := State.clock_laws
  times := State.times_laws
  region s i _ _ _ _ := s.region_laws i
  config s d _ _ _ _ _ _ _ := s.config_laws d
  reset s p := by
    obtain ⟨_, _, h1, h2, h3, h4, _, h6, h7, h8, h9, h10, h11, h12, h13, _⟩ := resetMeetsEveryLaw
    exact {
      places := fun _ => h1
      holdOrder := fun _ => h2
      unansweredOrder := fun _ => h3
      unansweredBound := fun _ => h4
      slotsDistinct := fun _ => h6
      slotsCounted := fun _ => h7
      filter := fun _ => h8
      sweeps := fun _ => h9
      ids := fun _ => h10
      timing := fun _ => h11
      regions := fun _ => h12
      configs := fun _ => h13 }

theorem step_laws {s t : State} (hs : step s = .next t) : LawsKept s t :=
  step_closed lawsKept_closed lawsKept_outerClosed (fun _ _ _ _ h => State.accept_laws h) hs

/-- Settles O55: the four laws of the queue and of the response lists, as every step keeps them. -/
theorem stepsKeepAcceptanceOrder : Obligations.StepsKeepAcceptanceOrder := by
  unfold Obligations.StepsKeepAcceptanceOrder
  exact ⟨fun _ _ h hs => (step_laws hs).places h, fun _ _ h hs => (step_laws hs).holdOrder h,
    fun _ _ h hs => (step_laws hs).unansweredOrder h, fun _ _ h hs => (step_laws hs).unansweredBound h⟩

/-- Settles O57: the two laws of the capture slots, as every step keeps them. -/
theorem stepsKeepSlotLaws : Obligations.StepsKeepSlotLaws := by
  unfold Obligations.StepsKeepSlotLaws
  exact ⟨fun _ _ h hs => (step_laws hs).slotsDistinct h, fun _ _ h hs => (step_laws hs).slotsCounted h⟩

/-- Settles O58: the law of the filter, as every step keeps it. -/
theorem stepsKeepFilterUnique : Obligations.StepsKeepFilterUnique := by
  unfold Obligations.StepsKeepFilterUnique
  exact fun _ _ h hs => (step_laws hs).filter h

/-- Settles O59: the laws of the settings, of the sweep engine and of the IDs, as every step keeps them. -/
theorem stepsKeepSettingsSweepsAndIds : Obligations.StepsKeepSettingsSweepsAndIds := by
  unfold Obligations.StepsKeepSettingsSweepsAndIds
  exact ⟨fun _ _ h hs => (step_laws hs).timing h, fun _ _ h hs => (step_laws hs).regions h,
    fun _ _ h hs => (step_laws hs).configs h, fun _ _ h hs => (step_laws hs).sweeps h,
    fun _ _ h hs => (step_laws hs).ids h⟩

end Sys2Proof.Machine
end

section
/-! PROOFS. The laws of reset and of the frame engine are kept by every step: the shared moves leave pins and frame engine
alone, and each command of the management port is shown by itself. -/

namespace Sys2Proof.Machine

-- One declaration at a time: under the check's memory limit there is no room for many threads' stacks.
set_option Elab.async false

/-! ### Moves that leave the management port alone -/

/-- Pins and frame engine stand as they did, and so does the record at the head of the fault queue. -/
structure PortKept (s t : State) : Prop where
  pins : t.pins = s.pins := by rfl
  frame : t.frame = s.frame := by rfl
  head : ∀ r, s.faults.queue.head? = some r → t.faults.queue.head? = some r := by exact fun _ => id

theorem PortKept.refl (s : State) : PortKept s s := {}

theorem PortKept.trans {s t u : State} (h : PortKept s t) (h' : PortKept t u) : PortKept s u where
  pins := h'.pins.trans h.pins
  frame := h'.frame.trans h.frame
  head r hr := h'.head r (h.head r hr)

/-- An offered record joins the tail of the queue, or replaces the last of eight: the oldest stays (R151). -/
theorem State.enqueueFault_portKept (s : State) (r : FaultRecord) : PortKept s (s.enqueueFault r) := by
  unfold State.enqueueFault
  split
  · refine { head := fun x hx => ?_ }
    rw [List.head?_eq_some_iff] at hx
    obtain ⟨rest, hx⟩ := hx
    simp [hx]
  · next hfull =>
    refine { head := fun x hx => ?_ }
    rw [List.head?_eq_some_iff] at hx
    obtain ⟨rest, hx⟩ := hx
    cases rest with
    | nil => simp [hx, Config.faultPlaces] at hfull
    | cons y rest => simp [hx]

theorem State.count_portKept (s : State) (d : DomId) (c : Counter) (n : Nat) : PortKept s (s.count d c n) := by
  obtain ⟨_, _, h⟩ := s.count_eq d c n
  rw [h]
  exact {}

theorem State.setSide_portKept (s : State) (dir : Dir) (m : MemSide) : PortKept s (s.setSide dir m) := by
  cases dir <;> exact {}

theorem State.setUp_portKept (s : State) (dir : Dir) (u : Upstream) : PortKept s (s.setUp dir u) := by
  cases dir <;> exact {}

theorem HandedFrom.portKept {s t : State} (h : HandedFrom s t) : PortKept s t := by
  obtain ⟨_, _, _, _, _, he⟩ := h
  rw [he]
  exact {}

theorem portKept_closed : Closed PortKept where
  refl := .refl
  trans := .trans
  raise _ _ := {}
  enqueueFault := State.enqueueFault_portKept
  countGlobal _ _ := {}
  domain _ _ _ _ := {}
  requestSweep s d := by
    rw [State.requestSweep_eq]
    exact {}
  setMark _ _ _ := {}
  dropEntry _ _ := {}
  rewrite _ _ _ := {}
  forward s dir _ := s.setSide_portKept dir _
  handOver s a := s.setSide_portKept a.dir _
  freeId s dir _ := s.setSide_portKept dir _
  timeOutOwn s dir _ := s.setSide_portKept dir _
  handed _ _ _ _ := {}
  filled _ _ _ _ _ := {}
  freeSlot _ _ _ := {}
  allocate s d region lines _ := by
    obtain ⟨_, _, _, _, h⟩ := s.allocateSlots_eq d region lines
    rw [h]
    exact {}
  insert s d l p := by
    obtain ⟨_, _, _, h⟩ := s.filterInsert_eq d l p
    rw [h]
    exact {}
  walk _ _ := {}
  waiting _ _ := {}

theorem State.accept_portKept (s : State) (q : Request) : PortKept s (s.accept q) := by
  have enqueued : ∀ t f, PortKept t (State.enqueueEntry t f) := fun t f => by
    unfold State.enqueueEntry
    dsimp only
    split
    · exact .trans {} (State.count_portKept _ _ _ _)
    · exact {}
  exact s.accept_closed portKept_closed q {} enqueued

theorem State.giveUpstream_portKept (s : State) (u : Unanswered) (resp : MemResp) :
    PortKept s (s.giveUpstream u resp) :=
  .trans (t := s.dropUnanswered u.arrival) {} (State.setUp_portKept _ _ _)

theorem State.deliver_portKept (s : State) (id : InitId) (resp : MemResp) (busy : Bool) :
    PortKept s (s.deliver id resp busy) := by
  unfold State.deliver
  dsimp only
  split
  · split
    · exact s.giveUpstream_portKept _ _
    · exact s.setUp_portKept _ _
  · exact .refl s

theorem State.answerHead_portKept (s : State) (dir : Dir) (u : Unanswered) : PortKept s (s.answerHead dir u) := by
  unfold State.answerHead
  split
  · exact .refl s
  · exact s.giveUpstream_portKept u _
  · split
    · split
      · exact (s.setUp_portKept _ _).trans (State.giveUpstream_portKept _ _ _)
      · exact .refl s
    · exact .refl s

theorem PortKept.sweepEnded {s v r : State} {idle next : Sweeper} (h : PortKept s v)
    (hr : HandedFrom { v with sweep := idle } r) : PortKept s { r with sweep := next } where
  pins := hr.portKept.pins.trans h.pins
  frame := hr.portKept.frame.trans h.frame
  head x hx := hr.portKept.head x (h.head x hx)

theorem State.sweepStep_portKept (s : State) (r : RunningSweep) : PortKept s (s.sweepStep r) := by
  rcases Nat.lt_or_ge 1 r.left with hmore | hlast
  · rw [s.sweepStep_goes_on hmore]
    exact {}
  · rw [s.sweepStep_ends hlast]
    exact PortKept.sweepEnded (v := s.visitSet r.domain r.next) {} (State.releaseHeld_handed _)

/-! ### The laws of the management port from one state to another -/

/-- The laws of the frame engine hold on, and the part stays out of reset. -/
structure FrameKept (s t : State) : Prop where
  running : s.inReset = false → t.inReset = false
  quiet : s.FrameQuiet → t.FrameQuiet
  counted : s.FrameCounted → t.FrameCounted
  latch : s.FrameQuiet → s.LatchAtHead → t.LatchAtHead

/-- The four laws hold on. -/
structure PortLawsKept (s t : State) : Prop where
  reset : s.ResetHeld → t.ResetHeld
  quiet : s.FrameQuiet → t.FrameQuiet
  counted : s.FrameCounted → t.FrameCounted
  latch : s.FrameQuiet → s.LatchAtHead → t.LatchAtHead

theorem State.inReset_congr {s t : State} (hsupply : t.pins.supply = s.pins.supply) (hrst : t.pins.rstN = s.pins.rstN) :
    t.inReset = s.inReset := by
  rw [State.inReset, State.inReset, hsupply, hrst]

theorem State.resetHeld_of_running {s : State} (h : s.inReset = false) : s.ResetHeld := fun hr => by
  rw [h] at hr
  cases hr

/-- Levels at the pins and waiting commands may change in reset (notes/assumptions/10.md). -/
theorem State.ResetHeld.of_levels {s t : State} (h : s.ResetHeld) (ht : t = { s with pins := t.pins, pending := t.pending })
    (hreset : t.inReset = true → s.inReset = true) : t.ResetHeld := by
  intro hr
  have held := h (hreset hr)
  rw [ht, held]
  rfl

theorem PortKept.frameKept {s t : State} (h : PortKept s t) : FrameKept s t := by
  obtain ⟨hpins, hframe, hhead⟩ := h
  refine ⟨fun hr => ?_, fun hq => ?_, fun hc => ?_, fun _ hl hst r hr => ?_⟩
  · exact (State.inReset_congr (s := s) (by rw [hpins]) (by rw [hpins])).trans hr
  · unfold State.FrameQuiet
    rw [hpins, hframe]
    exact hq
  · unfold State.FrameCounted
    rw [hframe]
    exact hc
  · rw [hframe] at hst hr
    exact hhead r (hl hst r hr)

theorem FrameKept.refl (s : State) : FrameKept s s := (PortKept.refl s).frameKept

theorem FrameKept.portLaws {s t : State} (h : FrameKept s t) (hs : s.inReset = false) : PortLawsKept s t :=
  ⟨fun _ => State.resetHeld_of_running (h.running hs), h.quiet, h.counted, h.latch⟩

theorem PortLawsKept.refl (s : State) : PortLawsKept s s := ⟨id, id, id, fun _ => id⟩

theorem PortLawsKept.trans {s t u : State} (h : PortLawsKept s t) (h' : PortLawsKept t u) : PortLawsKept s u where
  reset := h'.reset ∘ h.reset
  quiet := h'.quiet ∘ h.quiet
  counted := h'.counted ∘ h.counted
  latch hq hl := h'.latch (h.quiet hq) (h.latch hq hl)

/-- A command of the part keeps the laws if its effect does: in reset it changes nothing (R20, R174, R180). -/
theorem PortLawsKept.of_running {f : State → State} {s t : State} (he : whileRunning f s = .next t)
    (hf : FrameKept s (f s)) : PortLawsKept s t := by
  by_cases hs : s.inReset = true
  · rw [whileRunning_inReset f s hs] at he
    cases he
    exact .refl s
  · rw [Bool.not_eq_true] at hs
    rw [whileRunning_next f s hs] at he
    cases he
    exact hf.portLaws hs

/-- A request keeps the laws if its effect on a port in REQUEST does. -/
theorem PortLawsKept.of_request {bytes : List Byte} {f : State → State} {s t : State} (he : inRequest bytes f s = .next t)
    (hf : s.frame.state = .request → FrameKept s (f s)) : PortLawsKept s t := by
  refine .of_running he ?_
  split
  · next h =>
    rw [Bool.and_eq_true, decide_eq_true_eq] at h
    exact hf h.1
  · exact .refl s

/-- CS_N is low while the engine is not in IDLE. -/
theorem State.FrameQuiet.csN_low {s : State} (h : s.FrameQuiet) (hst : s.frame.state ≠ .idle) : s.pins.csN = false := by
  rw [← Bool.not_eq_true]
  exact mt h.1 hst

/-- A frame engine out of IDLE and REQUEST keeps the law of quiet frames. -/
theorem State.FrameQuiet.busy {s t : State} (h : s.FrameQuiet) (hs : s.frame.state ≠ .idle) (hpins : t.pins = s.pins)
    (ht : t.frame.state = .reply ∨ t.frame.state = .trail) : t.FrameQuiet := by
  have hlow := h.csN_low hs
  refine ⟨fun hc => ?_, fun hi => ?_, fun hr => ?_⟩
  · rw [hpins, hlow] at hc
    cases hc
  · rw [hi] at ht
    rcases ht with ht | ht <;> cases ht
  · rw [hr] at ht
    rcases ht with ht | ht <;> cases ht

/-- The answer to a request keeps the laws, if a record that it latched heads the fault queue (R152, R163, R164). -/
theorem State.answer_frameKept {s t : State} (hreq : s.frame.state = .request) (hpins : t.pins = s.pins) {q r : List Byte}
    (hr : r ≠ []) (hlatch : s.FrameQuiet → ∀ x, t.frame.latch = .fault x → t.faults.queue.head? = some x) :
    FrameKept s (t.answer q r) where
  running hs := (State.inReset_congr (s := s) (t := t) (by rw [hpins]) (by rw [hpins])).trans hs
  quiet hq := hq.busy (by rw [hreq]; decide) hpins (.inl rfl)
  counted _ := ⟨fun h => (by cases h), fun _ => List.length_pos_of_ne_nil hr⟩
  latch hq _ _ := hlatch hq

theorem replyBytes_ne_nil (opcode : Byte) (st : Status) (data : List Byte) : replyBytes opcode st data ≠ [] := by
  simp [replyBytes]

theorem State.reply_frameKept {s t : State} (hreq : s.frame.state = .request) (hpins : t.pins = s.pins)
    (hlatch : s.FrameQuiet → ∀ x, t.frame.latch = .fault x → t.faults.queue.head? = some x) (opcode : Byte)
    (args : List Byte) (st : Status) (data : List Byte) : FrameKept s (t.reply opcode args st data) :=
  State.answer_frameKept hreq hpins (replyBytes_ne_nil _ _ _) hlatch

/-- A reply that latches nothing keeps the laws: in REQUEST nothing is latched (R161). -/
theorem PortKept.answer {s t : State} (h : PortKept s t) (hreq : s.frame.state = .request) {q r : List Byte} (hr : r ≠ []) :
    FrameKept s (t.answer q r) :=
  State.answer_frameKept hreq h.pins hr fun hq x hx => by
    rw [h.frame, (hq.2.2 hreq).1] at hx
    cases hx

theorem PortKept.reply {s t : State} (h : PortKept s t) (hreq : s.frame.state = .request) (opcode : Byte)
    (args : List Byte) (st : Status) (data : List Byte) : FrameKept s (t.reply opcode args st data) :=
  h.answer hreq (replyBytes_ne_nil _ _ _)

/-- A frame that ends leaves the engine as reset leaves it (R161). -/
theorem State.endFrame_frameKept {s t : State} (hs : t.pins.supply = s.pins.supply) (hr : t.pins.rstN = s.pins.rstN)
    (hf : t.frame = FrameEngine.reset) : FrameKept s t := by
  refine ⟨fun h => ?_, fun _ => ?_, fun _ => ?_, fun _ _ => ?_⟩
  · rw [State.inReset_congr hs hr, h]
  · rw [State.FrameQuiet, hf]
    exact ⟨fun _ => rfl, fun _ => rfl, fun h => (by cases h)⟩
  · rw [State.FrameCounted, hf]
    exact ⟨fun h => (by cases h), fun h => (by cases h)⟩
  · rw [State.LatchAtHead, hf]
    exact fun h => (by cases h)

/-- An engine that goes to TRAIL, or stays there, keeps the laws (R165, R167). -/
theorem State.trail_frameKept {s t : State} (hs : s.frame.state ≠ .idle) (hpins : t.pins = s.pins)
    (ht : t.frame.state = .trail) : FrameKept s t := by
  refine ⟨fun h => ?_, fun hq => hq.busy hs hpins (.inr ht), fun _ => ?_, fun _ _ hr => ?_⟩
  · exact (State.inReset_congr (s := s) (by rw [hpins]) (by rw [hpins])).trans h
  · rw [State.FrameCounted, ht]
    exact ⟨fun h => (by cases h), fun h => (by cases h)⟩
  · rw [ht] at hr
    cases hr

/-! ### The commands -/

theorem State.domainOp_frameKept {s : State} (hreq : s.frame.state = .request) (b : Byte) (op : DomOp)
    {start : State → DomId → State} (hstart : ∀ t d, PortKept t (start t d)) : FrameKept s (s.domainOp b op start) := by
  unfold State.domainOp
  dsimp only
  split
  · exact (PortKept.refl s).reply hreq _ _ _ _
  · split
    · exact (PortKept.trans {} (hstart _ _)).reply hreq _ _ _ _
    · exact (PortKept.refl s).reply hreq _ _ _ _

theorem operation_portLaws {op : DomOp} {b : Byte} {s t : State} (he : exec (opCommand op b) s = .next t) :
    PortLawsKept s t := by
  have run : ∀ start : State → DomId → State, (∀ t d, PortKept t (start t d)) →
      inRequest (operationRequest b op) (fun s => s.domainOp b op start) s = .next t → PortLawsKept s t :=
    fun start hs hn => .of_request hn fun hreq => State.domainOp_frameKept hreq b op hs
  cases op
  · exact run _ (State.startFormat_closed portKept_closed) he
  · exact run _ (State.startRecover_closed portKept_closed) he
  · exact run _ (fun t d => t.drain_closed portKept_closed d .commit) he
  · exact run _ (fun t d => t.drain_closed portKept_closed d .rollback) he
  · exact run _ (fun t d => t.drain_closed portKept_closed d .close) he

theorem exec_inner_inReset {c : Instr} {s t : State} (hc : Instr.isInner c = true) (hs : s.inReset = true)
    (he : exec c s = .next t) : t = s := by
  cases c <;> simp only [Instr.isInner, Bool.false_eq_true] at hc <;>
    simp only [exec, execLateResponse, execCaptureReadIssue, execOldLineReadResponse, execRecordWriteIssue,
      execRecordWriteResponse, execFormatSlot1Issue, execFormatSlot1Response, execFormatInvalidateResponse,
      execAnchorReadIssue, execAnchorReadResponse, execAnchorWriteIssue, execCommitAnchorResponse,
      execRecordReadResponse, execReplayWriteIssue, execReplayWriteResponse, execRollbackAnchorResponse,
      execRecoverAnchorResponse, execHoldTimeout, execMemTimeout, whileRunning_inReset _ s hs,
      Host.Outcome.next.injEq] at he <;>
    exact he.symm

/-- A shared move that an inner command makes keeps the laws: in reset it makes none. -/
theorem inner_portLaws {c : Instr} {s t : State} (hc : Instr.isInner c = true) (he : exec c s = .next t) :
    PortLawsKept s t := by
  have kept := exec_inner_closed portKept_closed c s t hc he
  by_cases hs : s.inReset = true
  · rw [exec_inner_inReset hc hs he]
    exact .refl s
  · exact kept.frameKept.portLaws (Bool.not_eq_true _ ▸ hs)

theorem forwardedResponse_portLaws {id : InitId} {resp : MemResp} {busy : Bool} {s t : State}
    (he : execForwardedResponse id resp busy s = .next t) : PortLawsKept s t := by
  refine .of_running he (PortKept.frameKept ?_)
  split
  · next f _ =>
    split
    · have delivered := (s.setSide_portKept (respDir resp) _).trans
        (State.deliver_portKept (s.dropIssued (respDir resp) f.arrival) id resp busy)
      dsimp only
      split
      · exact delivered.trans (State.releaseHeld_handed _).portKept
      · exact delivered
    · exact .refl s
  · exact .refl s

theorem setRegion_portLaws {entry flags : Byte} {base : Addr} {pages : BitVec 32} {s t : State}
    (he : execSetRegion entry flags base pages s = .next t) : PortLawsKept s t := by
  refine .of_request he fun hreq => ?_
  split
  · split
    · exact PortKept.reply (s := s) {} hreq _ _ _ _
    · exact (PortKept.refl s).reply hreq _ _ _ _
  · exact (PortKept.refl s).reply hreq _ _ _ _

theorem setDomain_portLaws {domain flags : Byte} {base anchor : Addr} {capacity mark : BitVec 32} {s t : State}
    (he : execSetDomain domain base capacity anchor flags mark s = .next t) : PortLawsKept s t := by
  refine .of_request he fun hreq => ?_
  split
  · split
    · exact (PortKept.refl s).reply hreq _ _ _ _
    · split
      · exact PortKept.reply (s := s) {} hreq _ _ _ _
      · exact (PortKept.refl s).reply hreq _ _ _ _
  · exact (PortKept.refl s).reply hreq _ _ _ _

/-- A GET_COUNTER latches a value, and no record (R144). -/
theorem getCounter_portLaws {selector subtract : Byte} {s t : State} (he : execGetCounter selector subtract s = .next t) :
    PortLawsKept s t := by
  refine .of_request he fun hreq => ?_
  split
  · exact State.reply_frameKept hreq (State.setLatch_pins _ _) (fun _ x hx => by cases hx) _ _ _ _
  · exact (PortKept.refl s).reply hreq _ _ _ _

/-- A TAKE_FAULT latches the record at the head of the queue (R152). -/
theorem takeFault_portLaws {s t : State} (he : execTakeFault s = .next t) : PortLawsKept s t := by
  refine .of_request he fun hreq => ?_
  split
  · next r rest hqueue =>
    refine State.reply_frameKept hreq (State.setLatch_pins _ _) (fun _ x hx => ?_) _ _ _ _
    cases hx
    rw [State.setLatch_faults, hqueue]
    rfl
  · exact (PortKept.refl s).reply hreq _ _ _ _

theorem State.completeReply_pins (s : State) : s.completeReply.pins = s.pins := by
  unfold State.completeReply
  split
  · next sel _ _ => cases sel <;> rfl
  all_goals rfl

theorem replyComplete_portLaws {s t : State} (he : execReplyComplete s = .next t) : PortLawsKept s t := by
  refine .of_running he ?_
  split
  · next hst => exact State.trail_frameKept (by rw [hst]; decide) s.completeReply_pins rfl
  all_goals exact .refl s

/-- A frame that begins leaves an engine in REQUEST that holds nothing yet (R161). -/
theorem frameStart_portLaws {s t : State} (he : execFrameStart s = .next t) : PortLawsKept s t := by
  cases he
  split
  · split
    · next hcs hreset =>
      refine ⟨fun h => h.of_levels rfl fun _ => hreset, fun h => ⟨fun hc => (by cases hc), h.2⟩, id, fun _ => id⟩
    · next hcs hreset =>
      rw [Bool.not_eq_true] at hreset
      refine ⟨fun _ => State.resetHeld_of_running hreset, fun _ => ?_, fun _ => ?_, fun _ _ hr => (by cases hr)⟩
      · exact ⟨fun hc => (by cases hc), fun hi => (by cases hi), fun _ => ⟨rfl, rfl⟩⟩
      · exact ⟨fun _ => .inl ⟨rfl, rfl⟩, fun hr => (by cases hr)⟩
  · exact .refl s

/-- In reset the end of a frame changes the level of CS_N only: the engine holds its values after reset already (R174). -/
theorem State.endFrame_portLaws (s : State) : PortLawsKept s s.endFrame := by
  have kept : FrameKept s s.endFrame := State.endFrame_frameKept rfl rfl rfl
  refine ⟨fun h => fun hr => ?_, kept.quiet, kept.counted, kept.latch⟩
  have held := h hr
  unfold State.endFrame State.setCsN
  rw [held]
  rfl

theorem frameEnd_portLaws {s t : State} (he : execFrameEnd s = .next t) : PortLawsKept s t := by
  cases he
  split
  · exact .refl s
  · split
    · exact s.endFrame_portLaws
    · exact s.endFrame_portLaws
    · exact .refl s
    · exact .refl s

/-- A change of levels other than CS_N keeps the laws, if it puts no part in operation into reset. -/
theorem PortLawsKept.of_levels {s t : State} (ht : t = { s with pins := t.pins, pending := t.pending })
    (hcs : t.pins.csN = s.pins.csN) (hreset : t.inReset = true → s.inReset = true) : PortLawsKept s t := by
  refine ⟨fun h => h.of_levels ht hreset, fun h => ?_, fun h => ?_, fun _ h => ?_⟩
  · rw [State.FrameQuiet, hcs, ht]
    exact h
  · rw [ht]
    exact h
  · rw [ht]
    exact h

theorem rstNRelease_portLaws {s t : State} (he : execRstNRelease s = .next t) : PortLawsKept s t := by
  cases he
  refine .of_levels rfl rfl fun hr => ?_
  simp only [State.inReset, Bool.and_true, Bool.not_eq_true'] at hr
  rw [State.inReset, hr, Bool.false_and, Bool.not_false]

theorem supplyStable_portLaws {s t : State} (he : execSupplyStable s = .next t) : PortLawsKept s t := by
  cases he
  split
  · next hrising =>
    refine .of_levels rfl rfl fun _ => ?_
    simp [State.inReset, hrising]
  · exact .refl s

/-- Every reset leaves a part that meets the laws. -/
theorem State.resetWith_portLaws (s : State) (p : Pins) : PortLawsKept s (s.resetWith p) where
  reset _ _ := rfl
  quiet _ := ⟨fun _ => rfl, fun _ => rfl, fun h => (by cases h)⟩
  counted _ := ⟨fun h => (by cases h), fun h => (by cases h)⟩
  latch _ _ h := by cases h

theorem exec_portLaws {c : Instr} {s t : State} (he : exec c s = .next t) : PortLawsKept s t := by
  cases c with
  | lateResponse | captureReadIssue | oldLineReadResponse | recordWriteIssue | recordWriteResponse
  | formatSlot1Issue | formatSlot1Response | formatInvalidateResponse | anchorReadIssue | anchorReadResponse
  | anchorWriteIssue | commitAnchorResponse | recordReadResponse | replayWriteIssue | replayWriteResponse
  | rollbackAnchorResponse | recoverAnchorResponse | holdTimeout | memTimeout => exact inner_portLaws rfl he
  | format b => exact operation_portLaws (op := .format) he
  | recover b => exact operation_portLaws (op := .recover) he
  | commit b => exact operation_portLaws (op := .commit) he
  | rollback b => exact operation_portLaws (op := .rollback) he
  | close b => exact operation_portLaws (op := .close) he
  | readRequest =>
    rw [exec, execReadRequest] at he
    refine .of_running he (PortKept.frameKept ?_)
    split
    · exact s.accept_portKept _
    · exact .refl s
  | writeRequest =>
    rw [exec, execWriteRequest] at he
    refine .of_running he (PortKept.frameKept ?_)
    split
    · split
      · exact PortKept.trans {} (State.accept_portKept _ _)
      · exact .refl s
    · exact .refl s
  | writeAddressTaken | absorbedResponse | tick =>
    simp only [exec, execWriteAddressTaken, execAbsorbedResponse, execTick] at he
    refine .of_running he (PortKept.frameKept ?_)
    repeat' split
    all_goals exact {}
  | mspIssue =>
    rw [exec, execMspIssue] at he
    refine .of_running he (PortKept.frameKept ?_)
    split
    · exact s.setSide_portKept _ _
    · exact .refl s
  | forwardedResponse => exact forwardedResponse_portLaws he
  | upstreamResponse =>
    rw [exec, execUpstreamResponse] at he
    refine .of_running he (PortKept.frameKept ?_)
    split
    · exact s.answerHead_portKept _ _
    · exact .refl s
  | sweepVisit =>
    rw [exec, execSweepVisit] at he
    refine .of_running he (PortKept.frameKept ?_)
    split
    · exact s.sweepStep_portKept _
    · exact .refl s
  | setRegion => exact setRegion_portLaws he
  | setDomain => exact setDomain_portLaws he
  | getCounter => exact getCounter_portLaws he
  | takeFault => exact takeFault_portLaws he
  | replyComplete => exact replyComplete_portLaws he
  | frameStart => exact frameStart_portLaws he
  | frameEnd => exact frameEnd_portLaws he
  | rstNRelease => exact rstNRelease_portLaws he
  | supplyStable => exact supplyStable_portLaws he
  | rstNAssert | powerOnReset | supplyLoss =>
    cases he
    exact s.resetWith_portLaws _
  | cutReply | shortFrame =>
    simp only [exec, execCutReply, execShortFrame] at he
    refine .of_running he ?_
    split
    · exact State.endFrame_frameKept rfl rfl rfl
    · exact .refl s
  | longFrame =>
    rw [exec, execLongFrame] at he
    refine .of_running he ?_
    split
    · next h =>
      rw [Bool.and_eq_true, decide_eq_true_eq] at h
      exact State.trail_frameKept (by rw [h.1]; decide) rfl h.1
    · exact .refl s
  | crcMismatch =>
    rw [exec, execCrcMismatch] at he
    refine .of_request he fun hreq => ?_
    dsimp only
    split
    · exact (PortKept.refl s).answer hreq (replyBytes_ne_nil _ _ _)
    · exact .refl s
  | unknownOpcode | domainOp =>
    simp only [exec, execUnknownOpcode, execDomainOp] at he
    refine .of_request he fun hreq => ?_
    split
    · exact (PortKept.refl s).reply hreq _ _ _ _
    · exact .refl s
  | setMask | clearEvents | setTiming =>
    simp only [exec, execSetMask, execClearEvents, execSetTiming] at he
    refine .of_request he fun hreq => ?_
    split
    · exact PortKept.reply (s := s) {} hreq _ _ _ _
    · exact (PortKept.refl s).reply hreq _ _ _ _
  | ident | getStatus | getRegion | getDomain =>
    simp only [exec, execIdent, execGetStatus, execGetRegion, execGetDomain] at he
    refine .of_request he fun hreq => ?_
    repeat' split
    all_goals exact (PortKept.refl s).reply hreq _ _ _ _

/-! ### Idle steps -/

theorem State.busClock_portLaws (s : State) : PortLawsKept s s.busClock := by
  by_cases hr : s.inReset = true
  · have same : s.busClock = s := by rw [State.busClock, hr, Bool.true_or, if_pos rfl]
    rw [same]
    exact .refl s
  · refine FrameKept.portLaws (PortKept.frameKept ?_) (Bool.not_eq_true _ ▸ hr)
    unfold State.busClock
    repeat' split
    all_goals exact {}

theorem two_le_expectedLength (opcode : Byte) : 2 ≤ expectedLength opcode := by
  unfold expectedLength
  omega

theorem FrameEngine.takeByte_reply {f : FrameEngine} (h : f.state = .reply) (b : Byte) :
    f.takeByte b = { f with index := f.index + 1 } := by
  obtain ⟨_, _ | _, _⟩ := f <;> cases h <;> rfl

/-- The opcode byte fixes the expected length (R162). -/
theorem FrameEngine.takeByte_opcode {f : FrameEngine} (h : f.state = .request) (hempty : f.request = []) (b : Byte) :
    f.takeByte b = { f with request := [b], expected := some (expectedLength b) } := by
  obtain ⟨_, _, _⟩ := f
  cases h
  cases hempty
  rfl

theorem FrameEngine.takeByte_later {f : FrameEngine} (h : f.state = .request) (hsome : f.request ≠ []) (b : Byte) :
    f.takeByte b = { f with request := f.request ++ [b] } := by
  obtain ⟨_, _ | _, _⟩ := f
  · exact absurd rfl hsome
  · cases h
    rfl

/-- A byte that completes midway leaves the engine in its state, with the counts below the lengths (R161, R162). -/
theorem FrameEngine.takeByte_midway {s t : State} {b : Byte} (hm : s.frame.midway = true)
    (hpins : t.pins = { s.pins with clocking := t.pins.clocking }) (hfaults : t.faults = s.faults)
    (ht : t.frame = s.frame.takeByte b) : FrameKept s t := by
  have csN : t.pins.csN = s.pins.csN := by rw [hpins]
  have running : s.inReset = false → t.inReset = false := fun h => by
    exact (State.inReset_congr (s := s) (by rw [hpins]) (by rw [hpins])).trans h
  unfold FrameEngine.midway at hm
  cases hst : s.frame.state with
  | idle => rw [hst] at hm; cases hm
  | trail => rw [hst] at hm; cases hm
  | reply =>
    rw [hst, decide_eq_true_eq] at hm
    have hf : t.frame = { s.frame with index := s.frame.index + 1 } := by
      rw [ht, FrameEngine.takeByte_reply hst]
    have state : t.frame.state = .reply := by rw [hf]; exact hst
    refine ⟨running, fun hq => ⟨?_, ?_, ?_⟩, fun _ => ⟨?_, fun _ => ?_⟩, fun _ hl _ r hr => ?_⟩
    · rw [csN, state, ← hst]
      exact hq.1
    · intro hi
      rw [state] at hi
      cases hi
    · intro hi
      rw [state] at hi
      cases hi
    · intro hi
      rw [state] at hi
      cases hi
    · rw [hf]
      exact hm
    · rw [hf] at hr
      rw [hfaults]
      exact hl hst r hr
  | request =>
    rw [hst, decide_eq_true_eq] at hm
    have hf : t.frame.state = .request ∧ t.frame.latch = s.frame.latch ∧ t.frame.reply = s.frame.reply := by
      rw [ht]
      by_cases hempty : s.frame.request = []
      · rw [FrameEngine.takeByte_opcode hst hempty]
        exact ⟨hst, rfl, rfl⟩
      · rw [FrameEngine.takeByte_later hst hempty]
        exact ⟨hst, rfl, rfl⟩
    obtain ⟨state, latch, reply⟩ := hf
    refine ⟨running, fun hq => ⟨?_, ?_, fun _ => ?_⟩, fun hc => ⟨fun _ => .inr ?_, ?_⟩, fun _ _ hr => ?_⟩
    · rw [csN, state, ← hst]
      exact hq.1
    · intro hi
      rw [state] at hi
      cases hi
    · rw [latch, reply]
      exact hq.2.2 hst
    · rw [ht]
      rcases hc.1 hst with ⟨hempty, -⟩ | ⟨opcode, rest, hreq, hexp, hlen⟩
      · rw [FrameEngine.takeByte_opcode hst hempty]
        exact ⟨b, [], rfl, rfl, two_le_expectedLength b⟩
      · rw [FrameEngine.takeByte_later hst (by simp [hreq])]
        rw [hreq] at hm hlen
        rw [hexp] at hm
        dsimp only
        rw [hreq]
        refine ⟨opcode, rest ++ [b], rfl, hexp, ?_⟩
        have : expectedLength opcode ≠ (opcode :: rest).length + 1 := fun hc => hm (by rw [hc])
        simp only [List.length_cons, List.length_append, List.length_nil] at this hlen ⊢
        omega
    · intro hi
      rw [state] at hi
      cases hi
    · rw [state] at hr
      cases hr

theorem State.clockByte_portLaws (s : State) : PortLawsKept s s.clockByte := by
  unfold State.clockByte
  split
  · next b rest _ =>
    split
    · next h =>
      rw [Bool.and_eq_true, Bool.not_eq_true'] at h
      obtain ⟨hr, hm⟩ := h
      refine FrameKept.portLaws ?_ hr
      cases b with
      | none =>
        exact ⟨fun h => h, fun h => h, fun h => h, fun _ h => h⟩
      | some b => exact FrameEngine.takeByte_midway hm rfl rfl rfl
    · exact .refl s
  · exact .refl s

theorem step_portLaws {s t : State} (hs : step s = .next t) : PortLawsKept s t := by
  unfold step at hs
  split at hs
  · next rest _ => exact (PortLawsKept.of_levels (t := { s with pending := rest }) rfl rfl id).trans (exec_portLaws hs)
  · cases hs
    exact s.busClock_portLaws.trans (State.clockByte_portLaws _)

/-- Settles O60: the four laws of reset and of the frame engine, as every step keeps them. -/
theorem stepsKeepResetAndFrameLaws : Obligations.StepsKeepResetAndFrameLaws := by
  unfold Obligations.StepsKeepResetAndFrameLaws
  exact ⟨fun _ _ h hs => (step_portLaws hs).reset h, fun _ _ h hs => (step_portLaws hs).quiet h,
    fun _ _ h hs => (step_portLaws hs).counted h, fun _ _ hq h hs => (step_portLaws hs).latch hq h⟩

end Sys2Proof.Machine
end

section
/-! PROOFS. What re-evaluations do to a domain record, and the occupancy of the domains: only a domain in OPEN is allocated
positions, so that a domain in OFF stays empty. -/

namespace Sys2Proof.Machine

-- One declaration at a time: under the check's memory limit there is no room for many threads' stacks.
set_option Elab.async false

/-! ### Allocations and breaks come about in OPEN -/

/-- A decision that asks for positions of the journal: to allocate, or to break the domain for want of them (R45, R52). -/
def Decision.takesSpace : Decision → Bool
  | .allocate _ | .breakForward => true
  | .forward _ | .refuseOff | .refuseFull | .hold _ _ _ => false

theorem State.writePath_carried_takesSpace (s : State) (d : DomId) (e : Entry) :
    (s.writePath d e true).takesSpace = false := by
  unfold State.writePath
  dsimp only
  split
  · rfl
  · split
    · rfl
    · rw [if_pos rfl]
      rfl

theorem readTreatment_takesSpace (x : Domain) : (readTreatment x).takesSpace = false := by
  unfold readTreatment
  split
  case h_8 => split <;> rfl
  all_goals rfl

theorem State.writeTreatment_takesSpace (s : State) (d : DomId) (e : Entry) (h : (s.dom d).state ≠ .openState) :
    (s.writeTreatment d e).takesSpace = false := by
  unfold State.writeTreatment
  dsimp only
  split
  case h_7 hopen => exact absurd hopen h
  case h_8 =>
    split
    · split
      · rfl
      · exact s.writePath_carried_takesSpace d e
    · split <;> rfl
  all_goals rfl

/-- Only the writes of a domain in OPEN ask for positions (R15, R45). -/
theorem State.decision_takesSpace {s : State} {e : Entry} (h : (s.decision e).takesSpace = true) :
    ∃ d, e.domain = some d ∧ (s.dom d).state = .openState := by
  unfold State.decision at h
  split at h
  · cases h
  · split at h
    · cases h
    · next d hd =>
      refine ⟨d, hd, ?_⟩
      by_contra hopen
      split at h
      · rw [readTreatment_takesSpace] at h
        cases h
      · rw [s.writeTreatment_takesSpace d e hopen] at h
        cases h

/-! ### Domain records under a re-evaluation -/

/-- What re-evaluations do to a domain record: outside OPEN they change its counters only, and in OPEN they may besides
reserve positions and slots, and break the domain (R15, R48, R52, R90). -/
structure Judged (x y : Domain) : Prop where
  config : y.config = x.config
  closed : x.state ≠ .openState → ∃ cs, y = { x with counters := cs }
  opened : x.state = .openState → y.state = .openState ∨ y.state = .broken

theorem Judged.of_counters (x : Domain) (cs : Vector Count 12) : Judged x { x with counters := cs } :=
  ⟨rfl, fun _ => ⟨cs, rfl⟩, .inl⟩

theorem Judged.refl (x : Domain) : Judged x x := .of_counters x x.counters

theorem Judged.trans {x y z : Domain} (h : Judged x y) (h' : Judged y z) : Judged x z where
  config := h'.config.trans h.config
  closed hx := by
    obtain ⟨cs, rfl⟩ := h.closed hx
    obtain ⟨cs', rfl⟩ := h'.closed hx
    exact ⟨cs', rfl⟩
  opened hx := by
    rcases h.opened hx with hy | hy
    · exact h'.opened hy
    · obtain ⟨cs, rfl⟩ := h'.closed (by rw [hy]; decide)
      exact .inr hy

/-- Every record of the state after is what re-evaluations make of the record before. -/
def State.JudgedTo (s t : State) : Prop := ∀ d, Judged (s.dom d) (t.dom d)

theorem State.JudgedTo.trans {s t u : State} (h : s.JudgedTo t) (h' : t.JudgedTo u) : s.JudgedTo u :=
  fun d => (h d).trans (h' d)

theorem State.JudgedTo.of_domains {s t : State} (h : t.domains = s.domains) : s.JudgedTo t := fun d => by
  rw [State.dom, State.dom, h]
  exact .refl _

theorem State.count_judged (s : State) (d : DomId) (c : Counter) (n : Nat) : s.JudgedTo (s.count d c n) := fun o => by
  obtain ⟨cs, flags, h⟩ := s.count_eq d c n
  have hdom : (s.count d c n).dom o = (s.setDom d { s.dom d with counters := cs }).dom o := by
    rw [h]
    rfl
  rw [hdom, State.setDom_dom]
  split
  · next ho => subst ho; exact .of_counters _ _
  · exact .refl _

/-- A change of a record in OPEN that leaves it in OPEN or in BROKEN. -/
theorem State.JudgedTo.of_open {s t : State} {d : DomId} (hopen : (s.dom d).state = .openState)
    (hconfig : (t.dom d).config = (s.dom d).config)
    (hstate : (t.dom d).state = .openState ∨ (t.dom d).state = .broken) (hother : ∀ o, o ≠ d → t.dom o = s.dom o) :
    s.JudgedTo t := fun o => by
  by_cases ho : o = d
  · subst ho
    exact ⟨hconfig, fun h => absurd hopen h, fun _ => hstate⟩
  · rw [hother o ho]
    exact .refl _

theorem State.enqueueFault_domains (s : State) (r : FaultRecord) : (s.enqueueFault r).domains = s.domains := by
  obtain ⟨_, _, _, h⟩ := s.enqueueFault_eq r
  rw [h]

theorem State.requestSweep_domains (s : State) (d : DomId) : (s.requestSweep d).domains = s.domains := by
  rw [State.requestSweep_eq]

theorem State.forwardEntry_domains (s : State) (e : Entry) : (s.forwardEntry e).domains = s.domains := by
  simp [State.forwardEntry]

theorem State.forwardCounting_judged (s : State) (e : Entry) (n : Nat) : s.JudgedTo (s.forwardCounting e n) := by
  have forwarded : s.JudgedTo (s.forwardEntry e) := .of_domains (s.forwardEntry_domains e)
  unfold State.forwardCounting
  dsimp only
  split
  · split
    · exact forwarded
    · exact forwarded.trans (State.count_judged _ _ _ _)
  · exact forwarded

theorem State.breakForward_judged {s : State} {e : Entry} {d : DomId} (hopen : (s.dom d).state = .openState) :
    s.JudgedTo (((s.journalFull d e).breakDomain d).forwardEntry e) := by
  have faulted : ∀ o, (s.journalFull d e).dom o = s.dom o := fun o => by
    rw [State.dom, State.dom, State.journalFull, State.fault, State.enqueueFault_domains]
  have broken : ∀ o, (((s.journalFull d e).breakDomain d).forwardEntry e).dom o =
      ((s.journalFull d e).updDom d fun x => { x with state := .broken }).dom o := fun o => by
    rw [State.dom, State.forwardEntry_domains, State.breakDomain, State.requestSweep_domains, State.raise_domains]
    rfl
  refine .of_open hopen ?_ ?_ fun o ho => ?_
  · rw [broken, State.updDom_dom_self, faulted]
  · rw [broken, State.updDom_dom_self]
    exact .inr rfl
  · rw [broken, State.updDom_dom_of_ne _ _ _ _ ho, faulted]

theorem State.allocateSlots_judged {s : State} {d : DomId} (region : Fin 16) (lines : List Line)
    (hopen : (s.dom d).state = .openState) : s.JudgedTo (s.allocateSlots d region lines) := by
  obtain ⟨_, _, h⟩ := s.reserve_dom_self d lines.length
  refine .of_open hopen ?_ ?_ fun o ho => ?_
  · rw [State.allocateSlots_dom, h]
    rfl
  · rw [State.allocateSlots_dom, h]
    exact .inl hopen
  · rw [State.allocateSlots_dom, s.reserve_dom_of_ne ho]

theorem State.refused_judged (s : State) (e : Entry) : s.JudgedTo (s.refuseEntry e) := .of_domains rfl

/-- A decision carried out judges every record, whatever keeps a held request (R88, R90). -/
theorem State.carryOut_judged {keep : State → Entry → State} (hkeep : ∀ t f, State.JudgedTo t (keep t f)) (s : State)
    (e : Entry) : s.JudgedTo (s.carryOut keep e (s.decision e)) := by
  have space : (s.decision e).takesSpace = true → ∃ d, e.domain = some d ∧ (s.dom d).state = .openState :=
    State.decision_takesSpace
  cases hd : s.decision e with
  | forward n => exact s.forwardCounting_judged e n
  | refuseOff =>
    unfold State.carryOut
    dsimp only
    split
    · exact (s.refused_judged e).trans (State.count_judged _ _ _ _)
    · exact s.refused_judged e
  | refuseFull =>
    unfold State.carryOut
    dsimp only
    split
    · exact (s.refused_judged e).trans ((State.count_judged _ _ _ _).trans (.of_domains (State.enqueueFault_domains _ _)))
    · exact s.refused_judged e
  | breakForward =>
    obtain ⟨d, hdom, hopen⟩ := space (by rw [hd]; rfl)
    unfold State.carryOut
    dsimp only
    rw [hdom]
    exact State.breakForward_judged hopen
  | hold w ls c => exact hkeep _ _
  | allocate lines =>
    obtain ⟨d, hdom, hopen⟩ := space (by rw [hd]; rfl)
    unfold State.carryOut
    dsimp only
    rw [hdom]
    exact State.JudgedTo.trans (State.allocateSlots_judged _ lines hopen) (hkeep _ _)

theorem State.reevaluated_judged (s : State) (e : Entry) :
    s.JudgedTo (s.carryOut State.replaceEntry e (s.decision e)) :=
  State.carryOut_judged (keep := State.replaceEntry) (fun _ _ => .of_domains rfl) s e

/-- A happening's work list judges every record (R91). -/
theorem State.workList_judged (fuel : Nat) :
    ∀ (todo seen : List Nat) (s : State), s.JudgedTo (State.workList fuel todo seen s) := by
  induction fuel with
  | zero => exact fun _ _ s => .of_domains rfl
  | succ n ih =>
    intro todo seen s
    unfold State.workList
    split
    · exact .of_domains rfl
    · exact (s.reevaluated_judged _).trans (ih _ _ _)

theorem State.reevaluate_judged (s : State) (set : List Nat) : s.JudgedTo (s.reevaluate set) :=
  State.workList_judged _ _ _ s

theorem State.enqueueEntry_judged (s : State) (e : Entry) : s.JudgedTo (s.enqueueEntry e) := by
  have queued : s.JudgedTo { s with hold := s.hold ++ [{ e with deadline := s.deadlineIn s.time.holdTimeout }] } :=
    .of_domains rfl
  unfold State.enqueueEntry
  dsimp only
  split
  · exact queued.trans (State.count_judged _ _ _ _)
  · exact queued

/-- An acceptance judges every record (R7, R88). -/
theorem State.accept_judged (s : State) (q : Request) : s.JudgedTo (s.accept q) := by
  have entered : ∀ m, s.JudgedTo (s.entered q m) := fun _ => .of_domains rfl
  have refused : ∀ c kind d, s.JudgedTo
      (State.refuseAtAcceptance (s.entered q .held) s.host.nextArrival q c kind d) := fun c kind d =>
    .of_domains (State.enqueueFault_domains _ _)
  unfold State.accept
  dsimp only
  split
  · exact refused _ _ _
  · exact refused _ _ _
  · next domain _ =>
    have seen : s.JudgedTo ((s.entered q .held).countWriteSeen q domain) := by
      unfold State.countWriteSeen
      split
      · exact (entered _).trans (State.count_judged _ _ _ _)
      · exact entered _
    have carried := fun e => seen.trans (State.carryOut_judged State.enqueueEntry_judged _ e)
    unfold State.evaluateFirst
    dsimp only
    split
    · exact (carried _).trans (State.reevaluate_judged _ _)
    · exact carried _

/-! ### Domains in OFF are empty -/

/-- A domain in OFF has no record in its journal (R34). -/
def State.OffEmpty (s : State) : Prop := ∀ d, (s.dom d).state = .off → (s.dom d).occupancy = 0

/-- From one state to another the domains in OFF stay empty. -/
structure OffKept (s t : State) : Prop where
  empty : s.OffEmpty → t.OffEmpty

theorem OffKept.trans {s t u : State} (h : OffKept s t) (h' : OffKept t u) : OffKept s u := ⟨h'.empty ∘ h.empty⟩

/-- `OffKept.trans` from the last operation back to the first. -/
theorem OffKept.after {s t u : State} (h' : OffKept t u) (h : OffKept s t) : OffKept s u := h.trans h'

theorem OffKept.of_domains {s t : State} (h : t.domains = s.domains) : OffKept s t := ⟨fun hs d => by
  rw [State.dom, h]
  exact hs d⟩

theorem OffKept.refl (s : State) : OffKept s s := ⟨id⟩

/-- A record may be changed where the state and the occupancy stay, or the new state is not OFF, or the journal is emptied. -/
theorem OffKept.updDom (s : State) (d : DomId) {f : Domain → Domain} (hf : ∀ x : Domain, (f x).state = .off →
    (x.state = .off ∧ (f x).occupancy = x.occupancy) ∨ (f x).occupancy = 0) : OffKept s (s.updDom d f) where
  empty hs o := by
    rw [State.updDom_dom]
    split
    · next ho =>
      subst ho
      intro hoff
      rcases hf _ hoff with ⟨hst, hocc⟩ | hocc
      · rw [hocc]
        exact hs o hst
      · exact hocc
    · exact hs o

/-- A change of other fields than the state and the occupancy. -/
theorem OffKept.fields (s : State) (d : DomId) {f : Domain → Domain} (hst : ∀ x, (f x).state = x.state)
    (hocc : ∀ x, (f x).occupancy = x.occupancy) : OffKept s (s.updDom d f) :=
  .updDom s d fun x h => .inl ⟨hst x ▸ h, hocc x⟩

/-- A change that takes the domain to a state other than OFF. -/
theorem OffKept.enters (s : State) (d : DomId) {f : Domain → Domain} (hst : ∀ x, (f x).state ≠ .off) :
    OffKept s (s.updDom d f) :=
  .updDom s d fun x h => absurd h (hst x)

/-- A change that empties the journal. -/
theorem OffKept.empties (s : State) (d : DomId) {f : Domain → Domain} (hocc : ∀ x, (f x).occupancy = 0) :
    OffKept s (s.updDom d f) :=
  .updDom s d fun x _ => .inr (hocc x)

theorem State.JudgedTo.offKept {s t : State} (h : s.JudgedTo t) : OffKept s t where
  empty hs d hoff := by
    by_cases hopen : (s.dom d).state = .openState
    · rcases (h d).opened hopen with hst | hst <;> (rw [hst] at hoff; cases hoff)
    · obtain ⟨cs, hd⟩ := (h d).closed hopen
      rw [hd] at hoff ⊢
      exact hs d hoff

theorem HandedFrom.offKept {s t : State} (h : HandedFrom s t) : OffKept s t where
  empty hs d := by
    obtain ⟨j, hd⟩ := h.domain d
    rw [hd]
    exact hs d

namespace State

variable (s : State) (d : DomId)

theorem count_offKept (c : Counter) (n : Nat) : OffKept s (s.count d c n) := (s.count_judged d c n).offKept

theorem fault_offKept (kind : FaultKind) (o : Option DomId) (i : Option InitId) (a : Option Addr) (p : Option Nat)
    (c : Option Code) : OffKept s (s.fault kind o i a p c) := .of_domains (s.enqueueFault_domains _)

theorem raise_offKept (e : Event) : OffKept s (s.raise e) := .of_domains rfl

theorem freeId_offKept (dir : Dir) (id : DownId) : OffKept s (s.freeId dir id) := .of_domains (s.freeId_domains dir id)

theorem sweep_offKept : OffKept s (s.requestSweep d) := .of_domains (s.requestSweep_domains d)

theorem reevaluate_offKept (set : List Nat) : OffKept s (s.reevaluate set) := (s.reevaluate_judged set).offKept

theorem foldl_offKept {α : Type} (f : State → α → State) (hf : ∀ t a, OffKept t (f t a)) (l : List α) :
    ∀ t, OffKept t (l.foldl f t) := by
  induction l with
  | nil => exact .refl
  | cons a l ih => exact fun t => (hf t a).trans (ih _)

/-! ### Ends of operations -/

theorem endOperation_offKept (r : OpResult) : OffKept s (s.endOperation d r) :=
  (raise_offKept _ _).after <| OffKept.fields s d (fun _ => rfl) fun _ => rfl

theorem offEntry_offKept (e : Entry) : OffKept s (State.offEntry d s e) := by
  unfold State.offEntry
  split
  · exact (count_offKept _ _ _ _).after <| OffKept.of_domains (t := s.refuseEntry e) rfl
  · split
    · exact .of_domains rfl
    · exact .of_domains (s.forwardEntry_domains e)

theorem enterOff_offKept : OffKept s (s.enterOff d) :=
  (reevaluate_offKept _ _).after <| (foldl_offKept _ (fun t e => t.offEntry_offKept d e) _ _).after <|
    OffKept.empties s d fun _ => rfl

theorem failToOff_offKept (r : OpResult) : OffKept s (s.failToOff d r) :=
  (endOperation_offKept _ _ _).after <| s.enterOff_offKept d

theorem breakDomain_offKept : OffKept s (s.breakDomain d) :=
  (sweep_offKept _ d).after <| (raise_offKept _ _).after <| OffKept.enters s d fun _ => by simp

theorem failToBroken_offKept : OffKept s (s.failToBroken d) :=
  (reevaluate_offKept _ _).after <| (endOperation_offKept _ d _).after <| (breakDomain_offKept _ d).after <|
    OffKept.fields s d (fun _ => rfl) fun _ => rfl

theorem prepareAnchor_offKept (e : Epoch) (r : OpResult) : OffKept s (s.prepareAnchor d e r) :=
  (handAnchorWrite_handed _ d).offKept.after <| OffKept.fields s d (fun _ => rfl) fun _ => rfl

theorem commitSucceeds_offKept : OffKept s (s.commitSucceeds d) :=
  (reevaluate_offKept _ _).after <| (endOperation_offKept _ d _).after <| (count_offKept _ d _ _).after <|
    (sweep_offKept _ d).after <| OffKept.enters s d fun _ => by simp

theorem rollbackSucceeds_offKept : OffKept s (s.rollbackSucceeds d) :=
  (reevaluate_offKept _ _).after <| (endOperation_offKept _ d _).after <| (count_offKept _ d _ _).after <|
    (sweep_offKept _ d).after <| OffKept.enters s d fun _ => by simp

theorem recoverSucceeds_offKept : OffKept s (s.recoverSucceeds d) :=
  (reevaluate_offKept _ _).after <| (endOperation_offKept _ d _).after <| (sweep_offKept _ d).after <|
    OffKept.enters s d fun _ => by simp

theorem formatSlot1Succeeds_offKept : OffKept s (s.formatSlot1Succeeds d) := by
  unfold State.formatSlot1Succeeds
  exact (handOver_handed _ _).offKept.after <| (sweep_offKept _ d).after <| OffKept.empties s d fun _ => rfl

theorem formatSucceeds_offKept : OffKept s (s.formatSucceeds d) :=
  (reevaluate_offKept _ _).after <| (endOperation_offKept _ d _).after <| OffKept.enters s d fun _ => by simp

theorem anchorFails_offKept (use : AnchorUse) (a : Addr) : OffKept s (s.anchorFails d use a) := by
  have faulted : OffKept s (s.anchorFault d a) := s.fault_offKept _ _ _ _ _ _
  cases use with
  | formatSlot1 | formatInvalidate | recover => exact (failToOff_offKept _ d _).after faulted
  | commit | rollback => exact (failToBroken_offKept _ d).after faulted

/-! ### Walks -/

theorem startWalk_offKept : OffKept s (s.startWalk d) := by
  unfold State.startWalk
  split
  · exact (handAnchorRead_handed _).offKept.after <| .of_domains rfl
  · exact (issueRecordRead_handed _).offKept.after <| .of_domains rfl

theorem claimEngine_offKept : OffKept s (s.claimEngine d) := by
  unfold State.claimEngine
  split
  · exact s.startWalk_offKept d
  · exact .of_domains rfl

theorem nextWalk_offKept : OffKept s s.nextWalk := by
  unfold State.nextWalk
  split
  · exact .refl s
  · exact (startWalk_offKept _ _).after <| .of_domains rfl

theorem recoverWalkEnds_offKept (e : Epoch) (r : OpResult) : OffKept s (s.recoverWalkEnds d e r) := by
  unfold State.recoverWalkEnds
  split
  · exact s.failToOff_offKept d _
  · exact s.failToOff_offKept d _
  all_goals
    split
    · exact s.failToOff_offKept d _
    · exact s.prepareAnchor_offKept d _ _

theorem rollbackWalkEnds_offKept (r : OpResult) : OffKept s (s.rollbackWalkEnds d r) := by
  unfold State.rollbackWalkEnds
  split
  · exact s.failToBroken_offKept d
  · exact s.failToBroken_offKept d
  all_goals exact s.prepareAnchor_offKept d _ _

theorem endWalk_offKept (w : Walk) (r : OpResult) : OffKept s (s.endWalk w r) := by
  have idle : OffKept s (s.setWalk none) := .of_domains rfl
  unfold State.endWalk
  dsimp only
  split
  · exact (nextWalk_offKept _).after <| (rollbackWalkEnds_offKept _ _ r).after <| idle
  · exact (nextWalk_offKept _).after <| (recoverWalkEnds_offKept _ _ _ r).after <| idle

theorem advanceWalk_offKept : OffKept s s.advanceWalk := by
  have moved : OffKept s s.handReplayWrite.issueRecordRead :=
    (s.handReplayWrite_handed.trans (issueRecordRead_handed _)).offKept
  unfold State.advanceWalk
  dsimp only
  split
  · split
    · exact (endWalk_offKept _ _ _).after <| moved
    · exact moved
  · exact moved

theorem judgeRecord_offKept (w : Walk) (p : Nat) (record : List Byte) : OffKept s (s.judgeRecord w p record) := by
  unfold State.judgeRecord State.passOver
  split
  · exact .of_domains rfl
  · split
    · exact (fault_offKept _ _ _ _ _ _ _).after <| (count_offKept _ _ .skipped 1).after <| .of_domains rfl
    · exact .refl s

theorem recordReadFails_offKept (w : Walk) (p : Nat) : OffKept s (s.recordReadFails w p) :=
  (fault_offKept _ _ _ _ _ _ _).after <| .of_domains rfl

theorem replayWriteFails_offKept (w : Walk) (p : Nat) (a : Addr) : OffKept s (s.replayWriteFails w p a) :=
  (fault_offKept _ _ _ _ _ _ _).after <| .of_domains rfl

theorem anchorReadsEnd_offKept (w : Walk) (x y : Option (List Byte)) : OffKept s (s.anchorReadsEnd w x y) := by
  unfold State.anchorReadsEnd
  split
  · split
    · exact (advanceWalk_offKept _).after <| .of_domains rfl
    · exact s.endWalk_offKept _ _
  · refine (endWalk_offKept _ _ _).after <| .of_domains ?_
    split <;> split <;> simp only [State.anchorReadFault, State.fault, enqueueFault_domains]

theorem anchorReadEnds_offKept (w : Walk) (x : Option (List Byte)) : OffKept s (s.anchorReadEnds w x) := by
  unfold State.anchorReadEnds
  split
  · exact s.anchorReadsEnd_offKept _ _ _
  all_goals exact ((s.setWalk_handed _).trans (handOver_handed _ _)).offKept

/-! ### Drains and captures -/

theorem drain_offKept (p : Pending) : OffKept s (s.startDrain d p) :=
  (OffKept.enters s d (f := fun x => { x with state := .draining, pending := p }) fun _ => by simp).trans
    (.of_domains rfl)

theorem enterRolling_offKept : OffKept s (s.enterRolling d) := by
  unfold State.enterRolling
  dsimp only
  refine (OffKept.enters s d (f := fun x => { x with state := .rolling }) fun _ => by simp).trans ?_
  split
  · exact rollbackWalkEnds_offKept _ d _
  · exact claimEngine_offKept _ d

/-- The end of a drain before the operation goes on: nothing pending, and no entry of the domain carried (R32). -/
def drainEnded : State :=
  { s.updDom d fun x => { x with pending := .none } with
    hold := s.hold.map fun e => if e.domain = some d then { e with carried := false } else e }

theorem endDrain_eq : s.endDrain d = match (s.dom d).pending with
    | .commit => ((s.drainEnded d).updDom d fun x => { x with state := .committing }).prepareAnchor d
        (((s.drainEnded d).dom d).epoch + 1#32) .ok
    | .rollback =>
      if ((s.drainEnded d).dom d).brokenMark then (s.drainEnded d).markedRollbackEnds d
      else (s.drainEnded d).enterRolling d
    | .close => (((s.drainEnded d).enterOff d).requestSweep d).endOperation d .ok
    | .none => s.drainEnded d := by
  unfold State.endDrain
  rfl

theorem endDrain_offKept : OffKept s (s.endDrain d) := by
  have ended : OffKept s (s.drainEnded d) :=
    (OffKept.fields s d (f := fun x => { x with pending := .none }) (fun _ => rfl) fun _ => rfl).trans (.of_domains rfl)
  rw [endDrain_eq]
  refine ended.trans ?_
  split
  · exact (prepareAnchor_offKept _ d _ _).after <| OffKept.enters _ d fun _ => by simp
  · split
    · exact (reevaluate_offKept _ _).after <| (endOperation_offKept _ d _).after <| OffKept.enters _ d fun _ => by simp
    · exact enterRolling_offKept _ d
  · exact (endOperation_offKept _ d _).after <| (sweep_offKept _ d).after <| enterOff_offKept _ d
  · exact .refl _

theorem endDrainIfDone_offKept : OffKept s (s.endDrainIfDone d) := by
  unfold State.endDrainIfDone
  split
  · exact s.endDrain_offKept d
  · exact .refl s

theorem captureBreaks_offKept : OffKept s (s.captureBreaks d) := by
  unfold State.captureBreaks
  split
  · exact s.breakDomain_offKept d
  · split
    · exact .refl s
    · exact (sweep_offKept _ d).after <| (raise_offKept _ _).after <| OffKept.fields s d (fun _ => rfl) fun _ => rfl
  · exact .refl s

theorem freeSlot_offKept (k : SlotId) : OffKept s (s.freeSlot k) := by
  have freed : OffKept s (s.setSlot k { s.slot k with state := .free, deadline := none }) := .of_domains rfl
  unfold State.freeSlot
  exact freed.trans (.fields _ _ (fun _ => rfl) fun _ => rfl)

theorem finishCapture_offKept (k : SlotId) (more : List Nat) : OffKept s (s.finishCapture k more) :=
  (endDrainIfDone_offKept _ _).after <| (reevaluate_offKept _ _).after <| s.freeSlot_offKept k

theorem captureFails_offKept (k : SlotId) (kind : FaultKind) : OffKept s (s.captureFails k kind) :=
  (finishCapture_offKept _ _ _).after <| (captureBreaks_offKept _ _).after <| s.fault_offKept _ _ _ _ _ _

theorem filterInsert_offKept (l : Line) (p : Bool) : OffKept s (s.filterInsert d l p) := by
  unfold State.filterInsert
  dsimp only
  split
  · exact .of_domains rfl
  · split
    · exact .of_domains rfl
    · exact (count_offKept _ _ _ _).after <| .of_domains rfl

theorem recordDurable_offKept (k : SlotId) : OffKept s (s.recordDurable k) := by
  unfold State.recordDurable
  dsimp only
  refine (s.count_offKept (s.slot k).domain .captures 1).trans ?_
  split
  · exact (finishCapture_offKept _ _ _).after <| filterInsert_offKept _ _ _ _
  · exact finishCapture_offKept _ _ _

/-! ### Commands -/

theorem setSide_offKept (dir : Dir) (m : MemSide) : OffKept s (s.setSide dir m) := .of_domains (s.setSide_domains dir m)

theorem oldLineAnswered_offKept (k : SlotId) (id : DownId) (beats : List Beat) :
    OffKept s (s.oldLineAnswered k id beats) := by
  have freed : OffKept s (s.freeId .read id) := s.freeId_offKept _ _
  unfold State.oldLineAnswered
  split
  · split
    · exact (handRecordWrite_handed _ _).offKept.after <| freed.trans <| .of_domains rfl
    · exact (captureFails_offKept _ _ _).after <| freed
  · exact .refl s

theorem recordAnswered_offKept (k : SlotId) (id : DownId) (code : Code) : OffKept s (s.recordAnswered k id code) := by
  have freed : OffKept s (s.freeId .write id) := s.freeId_offKept _ _
  unfold State.recordAnswered
  split
  · split
    · exact (recordDurable_offKept _ _).after <| freed
    · exact (captureFails_offKept _ _ _).after <| freed
  · exact .refl s

theorem anchorAnswered_offKept (id : DownId) (code : Code) (use : AnchorUse) {succeed : State → DomId → State}
    (hs : ∀ t d, OffKept t (succeed t d)) : OffKept s (s.anchorAnswered id code use succeed) := by
  have freed : OffKept s (s.freeId .write id) := s.freeId_offKept _ _
  unfold State.anchorAnswered
  split
  · split
    · split
      · exact (hs _ _).after <| freed
      · exact (anchorFails_offKept _ _ _ _).after <| freed
    · exact .refl s
  · exact .refl s

theorem recordReadAnswered_offKept (w : Walk) (p : Nat) (beats : List Beat) :
    OffKept s (s.recordReadAnswered w p beats) := by
  unfold State.recordReadAnswered
  split
  · exact (advanceWalk_offKept _).after <| (judgeRecord_offKept _ _ _ _).after <| .of_domains rfl
  · exact (advanceWalk_offKept _).after <| s.recordReadFails_offKept _ _

theorem replayWriteAnswered_offKept (w : Walk) (a : OwnAccess) (code : Code) :
    OffKept s (s.replayWriteAnswered w a code) := by
  unfold State.replayWriteAnswered
  split
  · exact (advanceWalk_offKept _).after <| (count_offKept _ _ _ _).after <| .of_domains rfl
  · exact (advanceWalk_offKept _).after <| s.replayWriteFails_offKept _ _ _

theorem timeOutEntry_offKept (e : Entry) : OffKept s (s.timeOutEntry e) := by
  have refused : OffKept s (s.refuseEntry e) := .of_domains rfl
  unfold State.timeOutEntry
  dsimp only
  split
  · exact (reevaluate_offKept _ _).after <| (fault_offKept _ _ _ _ _ _ _).after <| (count_offKept _ _ _ _).after <|
      refused
  · exact (reevaluate_offKept _ _).after <| (fault_offKept _ _ _ _ _ _ _).after <| refused

theorem timeOutCapture_offKept (k : SlotId) (st : SlotState) (dir : Dir) (owner : Owner) (kind : FaultKind) :
    OffKept s (s.timeOutCapture k st dir owner kind) := by
  unfold State.timeOutCapture
  split
  · exact (captureFails_offKept _ _ _).after <| s.setSide_offKept dir _
  · exact .refl s

theorem timeOutAnchor_offKept : OffKept s (s.timeOutAnchor d) := by
  unfold State.timeOutAnchor
  dsimp only
  split
  · split
    · exact (anchorFails_offKept _ _ _ _).after <| s.setSide_offKept .write _
    · exact .refl s
  · exact .refl s

theorem timeOutWalkRead_offKept : OffKept s s.timeOutWalkRead := by
  unfold State.timeOutWalkRead
  dsimp only
  split
  · split
    · exact (advanceWalk_offKept _).after <| (recordReadFails_offKept _ _ _).after <| s.setSide_offKept .read _
    · exact (anchorReadEnds_offKept _ _ _).after <| s.setSide_offKept .read _
  · exact .refl s

theorem timeOutReplayWrite_offKept : OffKept s s.timeOutReplayWrite := by
  unfold State.timeOutReplayWrite
  dsimp only
  split
  · exact (advanceWalk_offKept _).after <| (replayWriteFails_offKept _ _ _ _).after <| s.setSide_offKept .write _
  · exact .refl s

theorem timeOutBuffer_offKept : OffKept s s.timeOutBuffer := by
  unfold State.timeOutBuffer
  split
  · split
    · split
      · exact (advanceWalk_offKept _).after <| s.replayWriteFails_offKept _ _ _
      · exact .refl s
    · exact .refl s
  · exact .refl s

theorem leaveOff_offKept (st : DomState) (hst : st ≠ .off) : OffKept s (s.leaveOff d st) := by
  have guarded : ∀ t e, OffKept t (State.guardEntry d t e) := fun t e =>
    (fault_offKept _ _ _ _ _ _ _).after <| .of_domains rfl
  exact (reevaluate_offKept _ _).after <| (foldl_offKept _ guarded _ _).after <| OffKept.enters s d fun _ => hst

theorem startFormat_offKept : OffKept s (s.startFormat d) :=
  (prepareAnchor_offKept _ d _ _).after <| s.leaveOff_offKept d _ (by simp)

theorem startRecover_offKept : OffKept s (s.startRecover d) :=
  (claimEngine_offKept _ d).after <| s.leaveOff_offKept d _ (by simp)

theorem reply_offKept (op : Byte) (args : List Byte) (st : Status) (data : List Byte) :
    OffKept s (s.reply op args st data) := .of_domains rfl

theorem domainOp_offKept (b : Byte) (op : DomOp) {start : State → DomId → State} (hs : ∀ t d, OffKept t (start t d)) :
    OffKept s (s.domainOp b op start) := by
  unfold State.domainOp
  dsimp only
  split
  · exact .of_domains rfl
  · split
    · exact (reply_offKept _ _ _ _ _).after <| (hs _ _).after <| OffKept.fields s _ (fun _ => rfl) fun _ => rfl
    · exact .of_domains rfl

end State

theorem OffKept.of_running {f : State → State} {s t : State} (he : whileRunning f s = .next t) (hf : OffKept s (f s)) :
    OffKept s t := by
  unfold whileRunning at he
  injection he with he
  subst he
  split
  · exact .refl s
  · exact hf

/-- The inner commands leave the domains in OFF empty. -/
theorem inner_offKept {c : Instr} {s t : State} (hc : Instr.isInner c = true) (he : exec c s = .next t) : OffKept s t := by
  cases c <;> simp only [Instr.isInner, Bool.false_eq_true] at hc <;>
    simp only [exec, execLateResponse, execCaptureReadIssue, execOldLineReadResponse, execRecordWriteIssue,
      execRecordWriteResponse, execFormatSlot1Issue, execFormatSlot1Response, execFormatInvalidateResponse,
      execAnchorReadIssue, execAnchorReadResponse, execAnchorWriteIssue, execCommitAnchorResponse,
      execRecordReadResponse, execReplayWriteIssue, execReplayWriteResponse, execRollbackAnchorResponse,
      execRecoverAnchorResponse, execHoldTimeout, execMemTimeout] at he <;>
    refine .of_running he ?_
  case lateResponse dir id codes =>
    split
    · exact (State.releaseHeld_handed _).offKept.after <| (State.fault_offKept _ _ _ _ _ _ _).after <|
        (s.freeId_offKept dir id).trans <| .of_domains rfl
    · exact .refl s
  case captureReadIssue k => exact (s.handCaptureRead_handed k).offKept
  case oldLineReadResponse id beats =>
    split
    · split
      · exact s.oldLineAnswered_offKept _ _ _
      · exact .refl s
    · exact .refl s
  case recordWriteIssue k => exact (s.handRecordWrite_handed k).offKept
  case recordWriteResponse id code =>
    split
    · split
      · exact s.recordAnswered_offKept _ _ _
      · exact .refl s
    · exact .refl s
  case formatSlot1Issue d =>
    split
    · exact (s.handAnchorWrite_handed d).offKept
    · exact .refl s
  case formatSlot1Response id code => exact s.anchorAnswered_offKept _ _ _ State.formatSlot1Succeeds_offKept
  case formatInvalidateResponse id code => exact s.anchorAnswered_offKept _ _ _ State.formatSucceeds_offKept
  case anchorReadIssue => exact s.handAnchorRead_handed.offKept
  case anchorReadResponse id beats =>
    split
    · split
      · exact (State.anchorReadEnds_offKept _ _ _).after <| s.setSide_offKept .read _
      · exact .refl s
    · exact .refl s
  case anchorWriteIssue d =>
    split
    · exact .refl s
    · exact (s.handAnchorWrite_handed d).offKept
  case commitAnchorResponse id code => exact s.anchorAnswered_offKept _ _ _ State.commitSucceeds_offKept
  case recordReadResponse id beats =>
    split
    · split
      · exact (State.recordReadAnswered_offKept _ _ _ _).after <| s.setSide_offKept .read _
      · exact .refl s
    · exact .refl s
  case replayWriteIssue => exact (s.handReplayWrite_handed.trans (State.issueRecordRead_handed _)).offKept
  case replayWriteResponse id code =>
    split
    · split
      · exact (State.replayWriteAnswered_offKept _ _ _ _).after <| s.setSide_offKept .write _
      · exact .refl s
    · exact .refl s
  case rollbackAnchorResponse id code => exact s.anchorAnswered_offKept _ _ _ State.rollbackSucceeds_offKept
  case recoverAnchorResponse id code => exact s.anchorAnswered_offKept _ _ _ State.recoverSucceeds_offKept
  case holdTimeout =>
    split
    · exact s.timeOutEntry_offKept _
    · exact .refl s
  case memTimeout ref =>
    cases ref with
    | captureRead k => exact s.timeOutCapture_offKept k _ _ _ _
    | recordWrite k => exact s.timeOutCapture_offKept k _ _ _ _
    | anchorWrite d => exact s.timeOutAnchor_offKept d
    | walkRead => exact s.timeOutWalkRead_offKept
    | replayWrite => exact s.timeOutReplayWrite_offKept
    | replayBuffer => exact s.timeOutBuffer_offKept

/-- The domain operations leave the domains in OFF empty. -/
theorem operation_offKept {op : DomOp} {b : Byte} {s t : State} (he : exec (opCommand op b) s = .next t) :
    OffKept s t := by
  have run : ∀ start : State → DomId → State, (∀ t d, OffKept t (start t d)) →
      inRequest (operationRequest b op) (fun s => s.domainOp b op start) s = .next t → OffKept s t := by
    intro start hs hn
    refine .of_running hn ?_
    split
    · exact s.domainOp_offKept b op hs
    · exact .refl s
  have drain : ∀ p t d, OffKept t ((State.startDrain t d p).endDrainIfDone d) := fun p t d =>
    (State.endDrainIfDone_offKept _ d).after <| t.drain_offKept d p
  cases op
  · exact run _ State.startFormat_offKept he
  · exact run _ State.startRecover_offKept he
  · exact run _ (drain .commit) he
  · exact run _ (drain .rollback) he
  · exact run _ (drain .close) he

/-! ### The occupancy of every domain -/

/-- No domain's journal holds more records than its capacity (R46). -/
def State.WithinCapacity (s : State) : Prop := ∀ d, (s.dom d).occupancy ≤ (s.dom d).config.capacity

/-- From one state to another every occupancy stays within its capacity. -/
def CapacityKept (s t : State) : Prop := s.WithinCapacity → t.WithinCapacity

theorem CapacityKept.of_domains {s t : State} (h : t.domains = s.domains) : CapacityKept s t := fun hs d => by
  rw [State.dom, h]
  exact hs d

theorem CapacityKept.setDom (s : State) (d : DomId) {y : Domain}
    (h : (s.dom d).occupancy ≤ (s.dom d).config.capacity → y.occupancy ≤ y.config.capacity) :
    CapacityKept s (s.setDom d y) := fun hs o => by
  rw [State.setDom_dom]
  split
  · exact h (hs d)
  · exact hs o

/-- A reservation stays within the capacity, because a line is allocated only where there is space (R46). -/
theorem State.allocateSlots_withinCapacity (s : State) (d : DomId) (region : Fin 16) (lines : List Line)
    (h : Allocatable s d lines) : CapacityKept s (s.allocateSlots d region lines) := fun hs o => by
  rw [State.allocateSlots_dom]
  by_cases ho : o = d
  · subst ho
    obtain ⟨_, _, he⟩ := s.reserve_dom_self o lines.length
    rw [he]
    exact h.space
  · rw [s.reserve_dom_of_ne ho]
    exact hs o

theorem State.filterInsert_withinCapacity (s : State) (d : DomId) (l : Line) (p : Bool) :
    CapacityKept s (s.filterInsert d l p) := by
  have counted : ∀ t o, CapacityKept t (State.count t o .evictions 1) := fun t o ht u => by
    rw [((t.count_judged o .evictions 1) u).config]
    by_cases hu : u = o
    · subst hu
      obtain ⟨cs, flags, h⟩ := t.count_eq u .evictions 1
      have hdom : (t.count u .evictions 1).dom u = (t.setDom u { t.dom u with counters := cs }).dom u := by
        rw [h]
        rfl
      rw [hdom, State.setDom_dom, if_pos rfl]
      exact ht u
    · rw [t.count_dom_of_ne hu]
      exact ht u
  unfold State.filterInsert
  dsimp only
  split
  · exact .of_domains rfl
  · split
    · exact .of_domains rfl
    · exact (counted _ _) ∘ CapacityKept.of_domains rfl

theorem capacityKept_closed : Closed CapacityKept where
  refl _ := id
  trans h h' := h' ∘ h
  raise _ _ := .of_domains rfl
  enqueueFault s r := .of_domains (s.enqueueFault_domains r)
  countGlobal _ _ := .of_domains rfl
  domain s d y m := .setDom s d fun h => by
    rw [m.config]
    rcases m.occupancy with ⟨ho, -⟩ | ho <;> rw [ho]
    · exact h
    · exact Nat.zero_le _
  requestSweep s d := .of_domains (s.requestSweep_domains d)
  setMark _ _ _ := .of_domains rfl
  dropEntry _ _ := .of_domains rfl
  rewrite _ _ _ := .of_domains rfl
  forward s dir _ := .of_domains (s.setSide_domains dir _)
  handOver s a := .of_domains (s.handOver_domains a)
  freeId s dir id := .of_domains (s.freeId_domains dir id)
  timeOutOwn s dir p := .of_domains (s.timeOutOwn_domains dir p)
  handed _ _ _ _ := .of_domains rfl
  filled _ _ _ _ _ := .of_domains rfl
  freeSlot s k _ := fun hs => CapacityKept.setDom _ _ (fun h => h) hs
  allocate s d region lines h := s.allocateSlots_withinCapacity d region lines h
  insert s d l p := s.filterInsert_withinCapacity d l p
  walk _ _ := .of_domains rfl
  waiting _ _ := .of_domains rfl

theorem State.occupancyBounded_iff (s : State) : s.OccupancyBounded ↔ s.WithinCapacity ∧ s.OffEmpty :=
  ⟨fun h => ⟨fun d => (h d).1, fun d => (h d).2⟩, fun h d => ⟨h.1 d, h.2 d⟩⟩

/-- From one state to another the occupancies stay bounded. -/
def OccupancyKept (s t : State) : Prop := s.OccupancyBounded → t.OccupancyBounded

theorem OccupancyKept.of_parts {s t : State} (h : CapacityKept s t) (h' : OffKept s t) : OccupancyKept s t := fun hs => by
  rw [State.occupancyBounded_iff] at hs ⊢
  exact ⟨h hs.1, h'.empty hs.2⟩

theorem OccupancyKept.of_domains {s t : State} (h : t.domains = s.domains) : OccupancyKept s t :=
  .of_parts (.of_domains h) (.of_domains h)

theorem HandedFrom.occupancyKept {s t : State} (h : HandedFrom s t) : OccupancyKept s t :=
  .of_parts
    (fun hs d => by
      obtain ⟨j, hd⟩ := h.domain d
      rw [hd]
      exact hs d)
    h.offKept

/-- The end of a sweep: what it held is handed over, and the sweep engine goes on (R80). -/
theorem OccupancyKept.sweepEnded {s v t : State} {x y : Sweeper} (h : OccupancyKept s v)
    (hr : HandedFrom { v with sweep := x } t) : OccupancyKept s { t with sweep := y } :=
  (OccupancyKept.of_domains rfl) ∘ hr.occupancyKept ∘ (OccupancyKept.of_domains rfl) ∘ h

theorem occupancyKept_outerClosed : OuterClosed OccupancyKept where
  refl _ := id
  trans h h' := h' ∘ h
  ports _ _ _ _ _ _ := .of_domains rfl
  counters s d cs := .of_parts (.setDom s d fun h => h) (.fields s d (f := fun x => { x with counters := cs })
    (fun _ => rfl) fun _ => rfl)
  handed h := h.occupancyKept
  keep _ _ _ := .of_domains rfl
  issue s dir _ _ := .of_domains (s.setSide_domains dir _)
  dropIssued s dir a := .of_domains (s.setSide_domains dir _)
  setUp s dir u := .of_domains (s.setUp_domains dir u)
  dropUnanswered _ _ := .of_domains rfl
  sweepStep s r _ := by
    have visited : (s.visitSet r.domain r.next).domains = s.domains := rfl
    rcases Nat.lt_or_ge 1 r.left with hmore | hlast
    · rw [s.sweepStep_goes_on hmore]
      exact .of_domains visited
    · rw [s.sweepStep_ends hlast]
      exact (OccupancyKept.of_domains visited).sweepEnded (State.releaseHeld_handed _)
  clock _ _ _ _ := .of_domains rfl
  times _ _ _ _ _ := .of_domains rfl
  region _ _ _ _ _ _ _ := .of_domains rfl
  config s d _ _ _ _ _ c hoff _ := fun hs o => by
    rw [State.updDom_dom]
    split
    · next ho =>
      subst ho
      have hocc := (hs o).2 hoff
      exact ⟨by simp [hocc], fun _ => hocc⟩
    · exact hs o
  reset s p := fun _ d => by
    have hdom : (s.resetWith p).dom d = Domain.reset := reset_dom d
    rw [hdom]
    exact ⟨le_rfl, fun _ => rfl⟩

theorem State.accept_withinCapacity (s : State) (q : Request) : CapacityKept s (s.accept q) := by
  have entered : CapacityKept s (s.entered q .held) := .of_domains rfl
  rcases s.accept_cases q with h | ⟨t, f, h, -, -, -, he⟩
  · exact (h _ capacityKept_closed) ∘ entered
  · have queued : CapacityKept t { t with hold := t.hold ++ [{ f with deadline := t.deadlineIn t.time.holdTimeout }] } :=
      .of_domains rfl
    rw [he]
    refine capacityKept_closed.trans ((h _ capacityKept_closed) ∘ entered) ?_
    unfold State.enqueueEntry
    dsimp only
    split
    · exact (State.count_closed capacityKept_closed _ _ _ _) ∘ queued
    · exact queued

theorem State.Presents.domains {s u : State} {q : Request} {c : Instr} (h : s.Presents q c u) :
    u.domains = s.domains := by
  unfold State.Presents at h
  split at h
  · obtain ⟨-, -, -, rfl⟩ := h
    rfl
  · obtain ⟨-, -, _, -, rfl⟩ := h
    rfl

/-- Settles O56: every step keeps the capacities and the emptiness of OFF, the one by moves, the other by what re-evaluations
may do to a record. -/
theorem stepsKeepOccupancyBounded : Obligations.StepsKeepOccupancyBounded := by
  unfold Obligations.StepsKeepOccupancyBounded
  intro s t hs hstep
  refine step_parts occupancyKept_outerClosed ?inner ?present ?operation hstep hs
  case inner =>
    exact fun c s t hc he => .of_parts (exec_inner_closed capacityKept_closed c s t hc he) (inner_offKept hc he)
  case present =>
    exact fun s q c u h => (OccupancyKept.of_parts (u.accept_withinCapacity q) (u.accept_judged q).offKept) ∘
      OccupancyKept.of_domains h.domains
  case operation =>
    exact fun op b s t he => .of_parts
      (exec_operation_closed capacityKept_closed (fun _ _ _ => .of_domains rfl) op b s t he) (operation_offKept he)

end Sys2Proof.Machine
end

section
/-! PROOFS. The settings of the management port (chapters 9 to 11): the event flags and the interrupt line, the region table,
and the domain records as they are set and reported. -/

namespace Sys2Proof.Machine

-- One declaration at a time: under the check's memory limit there is no room for many threads' stacks.
set_option Elab.async false

/-! ### Event flags -/

theorem eventBit_getLsbD (e : Event) (i : Fin 19) : (eventBit e).getLsbD i.val = decide (i.val = eventIndex e) := by
  have hi := i.isLt
  simp only [eventBit, BitVec.getLsbD_shiftLeft, BitVec.getLsbD_one, hi, decide_true, Bool.true_and]
  grind

/-- Settles O11: the line by the bits that the flags and the mask have in common, a raised event by its own bit. -/
theorem interruptLineFollowsFlags : Obligations.InterruptLineFollowsFlags := by
  unfold Obligations.InterruptLineFollowsFlags
  refine ⟨fun s => ?_, fun s e i => ⟨?_, rfl⟩⟩
  · have common : s.faults.flags &&& s.faults.mask ≠ 0#19 ↔
        ∃ i : Fin 19, (s.faults.flags &&& s.faults.mask).getLsbD i.val = true := by
      constructor
      · intro h
        by_contra hnone
        exact h (BitVec.eq_of_getLsbD_eq fun i hi => by simpa using fun hbit => hnone ⟨⟨i, hi⟩, hbit⟩)
      · rintro ⟨i, hi⟩ h
        rw [h] at hi
        simp at hi
    simpa [State.irqAsserted] using common
  · rw [State.raise, BitVec.getLsbD_or, eventBit_getLsbD]

/-! ### Bytes that name an entry or a domain -/

theorem leBytes_one (v : Nat) : leBytes 1 v = [BitVec.ofNat 8 v] := by simp [leBytes]

theorem entryOf_val {b : Byte} {i : Fin 16} (h : b.toNat = i.val) : entryOf b = some i := by
  have hlt : b.toNat < 16 := h ▸ i.isLt
  rw [entryOf, dif_pos hlt]
  exact congrArg some (Fin.ext h)

theorem entryOf_beyond {b : Byte} (h : 16 ≤ b.toNat) : entryOf b = none := dif_neg (by omega)

theorem domainOf_val {b : Byte} {d : DomId} (h : b.toNat = d.val) : domainOf b = some d := by
  have hlt : b.toNat < 4 := h ▸ d.isLt
  rw [domainOf, dif_pos hlt]
  exact congrArg some (Fin.ext h)

theorem domainOf_beyond {b : Byte} (h : 4 ≤ b.toNat) : domainOf b = none := dif_neg (by omega)

/-! ### The region table -/

/-- The argument checks of a SET_REGION with valid 1 (R10). -/
def RegionArgs (flags : Byte) (base : Addr) (pages : BitVec 32) : Prop :=
  base.toNat % 4096 = 0 ∧ 1 ≤ pages.toNat ∧ pages.toNat ≤ 2 ^ 28 ∧ base.toNat + pages.toNat * 4096 ≤ 2 ^ 40 ∧
    flags.toNat / 2 % 4 ≠ 3

theorem modeOfCode_modeCode (m : Mode) : modeOfCode (modeCode m) = some m := by cases m <;> rfl

theorem modeOfCode_none_iff (n : Nat) : modeOfCode (n % 4) = none ↔ n % 4 = 3 := by
  have h : n % 4 < 4 := Nat.mod_lt _ (by decide)
  interval_cases n % 4 <;> simp [modeOfCode]

theorem regionOf_invalid {flags : Byte} (h : flags.getLsbD 0 = false) (base : Addr) (pages : BitVec 32) :
    regionOf flags base pages = some Region.reset :=
  if_neg (by rw [h]; decide)

/-- The model's argument checks of a valid entry (R10). -/
theorem regionOf_valid {flags : Byte} {base : Addr} {pages : BitVec 32} (h : flags.getLsbD 0 = true) (m : Mode)
    (hm : modeCode m = flags.toNat / 2 % 4) (hargs : RegionArgs flags base pages) :
    regionOf flags base pages = some
      { valid := true, base := base, pages := pages.toNat, mode := m, domain := Fin.ofNat 4 (flags.toNat / 16 % 4) } := by
  rw [regionOf, if_pos h, ← hm, modeOfCode_modeCode]
  refine if_pos ?_
  simp only [Bool.and_eq_true, decide_eq_true_eq]
  obtain ⟨hbase, hone, hmost, hend, -⟩ := hargs
  exact ⟨⟨⟨hbase, hone⟩, hmost⟩, hend⟩

theorem regionOf_illegal {flags : Byte} {base : Addr} {pages : BitVec 32} (h : flags.getLsbD 0 = true)
    (hargs : ¬RegionArgs flags base pages) : regionOf flags base pages = none := by
  rw [regionOf, if_pos h]
  split
  · rfl
  · next m hm =>
    refine if_neg fun hc => hargs ?_
    have hthree : flags.toNat / 2 % 4 ≠ 3 := fun h3 => by
      rw [(modeOfCode_none_iff _).2 h3] at hm
      cases hm
    simp only [Bool.and_eq_true, decide_eq_true_eq] at hc
    obtain ⟨⟨⟨hbase, hone⟩, hmost⟩, hend⟩ := hc
    exact ⟨hbase, hone, hmost, hend, hthree⟩

theorem State.regionFree_iff (s : State) (r : Region) : s.regionFree r = true ↔
    r.valid = false ∨ r.mode ≠ .journal ∨ (s.dom r.domain).state = .off := by
  simp [State.regionFree, or_assoc]

section
variable {s : State} {entry flags : Byte} {base : Addr} {pages : BitVec 32}

/-- The argument bytes of SET_REGION (R178). -/
def regionArgBytes (entry flags : Byte) (base : Addr) (pages : BitVec 32) : List Byte :=
  [entry, flags] ++ beBytes 5 base.toNat ++ beBytes 4 pages.toNat

theorem exec_setRegion_arg (h : s.Receives 0x06#8 (regionArgBytes entry flags base pages))
    (hnone : entryOf entry = none ∨ regionOf flags base pages = none) :
    exec (.setRegion entry flags base pages) s =
      .next (s.reply 0x06#8 (regionArgBytes entry flags base pages) .arg []) := by
  unfold regionArgBytes at h ⊢
  rw [exec, execSetRegion, request_next _ _ _ s h]
  rcases hnone with hnone | hnone <;> rw [hnone]
  cases entryOf entry <;> rfl

/-- A SET_REGION whose arguments pass is decided by its two state checks (R10). -/
theorem exec_setRegion_checked (h : s.Receives 0x06#8 (regionArgBytes entry flags base pages)) {i : Fin 16} {r : Region}
    (hi : entryOf entry = some i) (hr : regionOf flags base pages = some r) :
    exec (.setRegion entry flags base pages) s = .next
      (if s.regionFree s.regions[i] && s.regionFree r then
        (s.setRegion i r).reply 0x06#8 (regionArgBytes entry flags base pages) .ok []
      else s.reply 0x06#8 (regionArgBytes entry flags base pages) .state []) := by
  unfold regionArgBytes at h ⊢
  rw [exec, execSetRegion, request_next _ _ _ s h, hi, hr]

end

theorem exec_getRegion {s : State} {entry : Byte} {i : Fin 16} (h : s.Receives 0x07#8 [entry])
    (hi : entryOf entry = some i) :
    exec (.getRegion entry) s = .next (s.reply 0x07#8 [entry] .ok (regionBytes s.regions[i])) := by
  rw [exec, execGetRegion, request_next _ _ _ s h, hi]

theorem exec_getRegion_arg {s : State} {entry : Byte} (h : s.Receives 0x07#8 [entry]) (hi : entryOf entry = none) :
    exec (.getRegion entry) s = .next (s.reply 0x07#8 [entry] .arg []) := by
  rw [exec, execGetRegion, request_next _ _ _ s h, hi]

/-- Settles O13: the argument checks by whether the bytes name an entry and a region, the state checks by whether the two
regions tie a domain in use. -/
theorem regionEntriesWrittenAndRead : Obligations.RegionEntriesWrittenAndRead := by
  unfold Obligations.RegionEntriesWrittenAndRead
  refine ⟨fun s entry flags base pages => ⟨fun h => ⟨fun hbad => ?_, fun i hi hlegal new hinvalid hvalid => ?_⟩,
    fun h => ⟨fun hbad => ?_, fun i hi => ?_⟩⟩, rfl⟩
  · refine exec_setRegion_arg h (hbad.imp entryOf_beyond ?_)
    exact fun ⟨hbit, hargs⟩ => regionOf_illegal hbit hargs
  · have hr : regionOf flags base pages = some new := by
      rcases hbit : flags.getLsbD 0 with _ | _
      · rw [regionOf_invalid hbit, hinvalid hbit]
        rfl
      · obtain ⟨hv, hb, hp, hm, hd⟩ := hvalid hbit
        have hdom : Fin.ofNat 4 (flags.toNat / 16 % 4) = new.domain := Fin.ext (by simp [hd])
        rw [regionOf_valid hbit new.mode hm (hlegal hbit), hdom, ← hb, ← hp, ← hv]
    intro free
    have hfree : (s.regionFree s.regions[i] && s.regionFree new) = true ↔ free s.regions[i] ∧ free new := by
      rw [Bool.and_eq_true, s.regionFree_iff, s.regionFree_iff]
    have answered := exec_setRegion_checked h (entryOf_val hi) hr
    exact ⟨fun hpass => answered.trans (by rw [if_pos (hfree.2 hpass)]; rfl),
      fun hfail => answered.trans (by rw [if_neg (hfail ∘ hfree.1)]; rfl)⟩
  · exact exec_getRegion_arg h (entryOf_beyond hbad)
  · rw [exec_getRegion h (entryOf_val hi)]
    simp only [regionBytes, leBytes_one, regionFlags, bitNat]

/-! ### The configuration of a domain -/

/-- The first check of SET_DOMAIN (R23). -/
def ConfigArgs (journalBase : Addr) (capacity : BitVec 32) (anchorBase : Addr) (flags : Byte) (highMark : BitVec 32) :
    Prop :=
  journalBase.toNat % 4096 = 0 ∧ 16 ≤ capacity.toNat ∧ capacity.toNat ≤ 65536 ∧ anchorBase.toNat % 128 = 0 ∧
    1 ≤ highMark.toNat ∧ highMark.toNat ≤ capacity.toNat ∧ flags.toNat % 4 ≠ 3 ∧
    journalBase.toNat + capacity.toNat * 128 ≤ 2 ^ 40 ∧ anchorBase.toNat + 128 ≤ 2 ^ 40 ∧
    (anchorBase.toNat + 128 ≤ journalBase.toNat ∨ journalBase.toNat + capacity.toNat * 128 ≤ anchorBase.toNat)

theorem policyOfCode_policyCode (p : Policy) : policyOfCode (policyCode p) = some p := by cases p <;> rfl

theorem policyOfCode_three {n : Nat} (h : n % 4 = 3) : policyOfCode (n % 4) = none := by rw [h]; rfl

theorem rangesMeet_eq_false_iff (a b : Nat × Nat) : rangesMeet a b = false ↔ b.2 ≤ a.1 ∨ a.2 ≤ b.1 := by
  simp [rangesMeet]
  omega

section
variable {journalBase anchorBase : Addr} {capacity highMark : BitVec 32} {flags : Byte}

/-- The model's first check is that of R23. -/
theorem configOf_checks_iff (c : DomainConfig) (hj : c.journalBase = journalBase) (hc : c.capacity = capacity.toNat)
    (ha : c.anchorBase = anchorBase) (hh : c.highMark = highMark.toNat) (hf : flags.toNat % 4 ≠ 3) :
    (decide (journalBase.toNat % Config.pageBytes = 0) && decide (16 ≤ c.capacity) && decide (c.capacity ≤ 65536) &&
      decide (anchorBase.toNat % 128 = 0) && decide (1 ≤ c.highMark) && decide (c.highMark ≤ c.capacity) &&
      decide ((journalArea c).2 ≤ Config.addressSpace) && decide ((anchorSpan c).2 ≤ Config.addressSpace) &&
      !rangesMeet (anchorSpan c) (journalArea c)) = true ↔
    ConfigArgs journalBase capacity anchorBase flags highMark := by
  simp only [Bool.and_eq_true, decide_eq_true_eq, Bool.not_eq_true', rangesMeet_eq_false_iff]
  simp only [ConfigArgs, journalArea, anchorSpan, Config.pageBytes, Config.recordBytes, Config.lineBytes,
    Config.addressSpace, hj, hc, ha, hh]
  omega

theorem configOf_legal_eq (c : DomainConfig) (hj : c.journalBase = journalBase) (hc : c.capacity = capacity.toNat)
    (ha : c.anchorBase = anchorBase) (hh : c.highMark = highMark.toNat) (he : c.halfEnable = flags.getLsbD 3)
    (hm : c.counterMode = .saturate ↔ flags.getLsbD 2 = true) (hp : policyCode c.policy = flags.toNat % 4)
    (hargs : ConfigArgs journalBase capacity anchorBase flags highMark) :
    configOf journalBase capacity anchorBase flags highMark = some c := by
  have hthree : flags.toNat % 4 ≠ 3 := by
    obtain ⟨-, -, -, -, -, -, h3, -⟩ := hargs
    exact h3
  have hmode : (if flags.getLsbD 2 then CounterMode.saturate else .wrap) = c.counterMode := by
    split
    · next h2 => exact (hm.2 h2).symm
    · next h2 =>
      cases hcm : c.counterMode with
      | wrap => rfl
      | saturate => exact absurd (hm.1 hcm) h2
  have hsame : DomainConfig.mk journalBase capacity.toNat anchorBase c.policy highMark.toNat
      (if flags.getLsbD 2 then .saturate else .wrap) (flags.getLsbD 3) = c := by
    rw [hmode, ← hj, ← hc, ← ha, ← hh, ← he]
  unfold configOf
  rw [← hp, policyOfCode_policyCode]
  exact (if_pos ((configOf_checks_iff (DomainConfig.mk journalBase capacity.toNat anchorBase c.policy highMark.toNat
    (if flags.getLsbD 2 then .saturate else .wrap) (flags.getLsbD 3)) rfl rfl rfl rfl hthree).2 hargs)).trans
    (congrArg some hsame)

theorem configOf_illegal (hargs : ¬ConfigArgs journalBase capacity anchorBase flags highMark) :
    configOf journalBase capacity anchorBase flags highMark = none := by
  unfold configOf
  split
  · rfl
  · next p hp =>
    have hthree : flags.toNat % 4 ≠ 3 := fun h3 => by
      rw [policyOfCode_three h3] at hp
      cases hp
    exact if_neg fun hc => hargs ((configOf_checks_iff (DomainConfig.mk journalBase capacity.toNat anchorBase p
      highMark.toNat (if flags.getLsbD 2 then .saturate else .wrap) (flags.getLsbD 3)) rfl rfl rfl rfl hthree).1 hc)

end

theorem State.othersClear_iff (s : State) (d : DomId) (c : DomainConfig) : s.othersClear d c = true ↔
    ∀ o, o ≠ d → (s.dom o).state ≠ .off → areasOverlap c (s.dom o).config = false := by
  simp only [State.othersClear, List.all_eq_true, mem_allDoms, true_implies, Bool.or_eq_true, decide_eq_true_eq,
    Bool.not_eq_true']
  exact forall_congr' fun o => by tauto

section
variable {s : State} {domain flags : Byte} {journalBase anchorBase : Addr} {capacity highMark : BitVec 32}

/-- The argument bytes of SET_DOMAIN (R178). -/
def configArgBytes (domain : Byte) (journalBase : Addr) (capacity : BitVec 32) (anchorBase : Addr) (flags : Byte)
    (highMark : BitVec 32) : List Byte :=
  [domain] ++ beBytes 5 journalBase.toNat ++ beBytes 4 capacity.toNat ++ beBytes 5 anchorBase.toNat ++ [flags] ++
    beBytes 4 highMark.toNat

theorem exec_setDomain_arg
    (h : s.Receives 0x08#8 (configArgBytes domain journalBase capacity anchorBase flags highMark))
    (hnone : domainOf domain = none ∨ configOf journalBase capacity anchorBase flags highMark = none) :
    exec (.setDomain domain journalBase capacity anchorBase flags highMark) s =
      .next (s.reply 0x08#8 (configArgBytes domain journalBase capacity anchorBase flags highMark) .arg []) := by
  unfold configArgBytes at h ⊢
  rw [exec, execSetDomain, request_next _ _ _ s h]
  rcases hnone with hnone | hnone <;> rw [hnone]
  cases domainOf domain <;> rfl

/-- A SET_DOMAIN whose arguments pass is decided by the domain's state and by the areas of the others (R23). -/
theorem exec_setDomain_checked
    (h : s.Receives 0x08#8 (configArgBytes domain journalBase capacity anchorBase flags highMark)) {d : DomId}
    {c : DomainConfig} (hd : domainOf domain = some d)
    (hc : configOf journalBase capacity anchorBase flags highMark = some c) :
    exec (.setDomain domain journalBase capacity anchorBase flags highMark) s = .next
      (if (s.dom d).state ≠ .off then
        s.reply 0x08#8 (configArgBytes domain journalBase capacity anchorBase flags highMark) .state []
      else if s.othersClear d c then
        (s.updDom d fun x => { x with config := c }).reply 0x08#8
          (configArgBytes domain journalBase capacity anchorBase flags highMark) .ok []
      else s.reply 0x08#8 (configArgBytes domain journalBase capacity anchorBase flags highMark) .arg []) := by
  unfold configArgBytes at h ⊢
  rw [exec, execSetDomain, request_next _ _ _ s h, hd, hc]

end

/-- Settles O14: the first check by the arguments, the others by the domain's state and the areas of the other domains. -/
theorem domainConfigurationChecked : Obligations.DomainConfigurationChecked := by
  unfold Obligations.DomainConfigurationChecked
  intro s domain journalBase capacity anchorBase flags highMark args h run c hj hcap ha hh he hm hp legal
  refine ⟨fun hbad => exec_setDomain_arg h (hbad.imp domainOf_beyond configOf_illegal), fun d hd hlegal => ?_⟩
  have hthree : flags.toNat % 4 ≠ 3 := by
    obtain ⟨-, -, -, -, -, -, h3, -⟩ := hlegal
    exact h3
  have answered := exec_setDomain_checked h (domainOf_val hd) (configOf_legal_eq c hj hcap ha hh he hm (hp hthree) hlegal)
  refine ⟨fun hused => answered.trans ?_, fun hoff => ⟨fun hmeet => answered.trans ?_, fun hclear => answered.trans ?_⟩⟩
  · rw [if_pos hused]
    rfl
  · have hblocked : ¬s.othersClear d c = true := fun hc => by
      obtain ⟨o, ho, hon, hov⟩ := hmeet
      rw [(s.othersClear_iff d c).1 hc o ho hon] at hov
      cases hov
    rw [if_neg (not_not.2 hoff), if_neg hblocked]
    rfl
  · rw [if_neg (not_not.2 hoff), if_pos ((s.othersClear_iff d c).2 hclear)]
    rfl

/-! ### The report of a domain -/

theorem testBit_bitNat_add_double (b : Bool) (n i : Nat) :
    (bitNat b + 2 * n).testBit i = if i = 0 then b else n.testBit (i - 1) := by
  cases i with
  | zero => cases b <;> simp [bitNat, Nat.testBit_zero]
  | succ i =>
    have half : (bitNat b + 2 * n) / 2 = n := by unfold bitNat; split <;> omega
    rw [Nat.testBit_succ, half]
    simp

/-- The half-point bits of counters numbered from `k` upward, as a number. -/
theorem halfPoints_bits (l : List Count) : ∀ k, ∃ n, ((l.zipIdx k).map fun p => bitNat (halfPoint p.1) * 2 ^ p.2).sum =
    n * 2 ^ k ∧ n < 2 ^ l.length ∧ ∀ i (h : i < l.length), n.testBit i = halfPoint l[i] := by
  induction l with
  | nil => exact fun k => ⟨0, by simp, by simp, fun i h => absurd h (by simp)⟩
  | cons v l ih =>
    intro k
    obtain ⟨n, hsum, hlt, hbits⟩ := ih (k + 1)
    refine ⟨bitNat (halfPoint v) + 2 * n, ?_, ?_, fun i hi => ?_⟩
    · rw [List.zipIdx_cons, List.map_cons, List.sum_cons, hsum, pow_succ]
      ring
    · have hbit : bitNat (halfPoint v) ≤ 1 := by unfold bitNat; split <;> decide
      rw [List.length_cons, pow_succ]
      omega
    · rw [testBit_bitNat_add_double]
      cases i with
      | zero => rfl
      | succ i => simpa using hbits i (by simpa using hi)

theorem halfPoints_testBit (x : Domain) (i : Fin 12) : (halfPoints x).testBit i.val = x.counters[i].getLsbD 31 := by
  obtain ⟨n, hsum, -, hbits⟩ := halfPoints_bits x.counters.toList 0
  rw [halfPoints, hsum, pow_zero, mul_one, hbits i.val (by simp)]
  rfl

theorem halfPoints_lt (x : Domain) : halfPoints x < 2 ^ 12 := by
  obtain ⟨n, hsum, hlt, -⟩ := halfPoints_bits x.counters.toList 0
  rw [halfPoints, hsum, pow_zero, mul_one]
  simpa using hlt

theorem configFlags_eq (c : DomainConfig) : configFlags c =
    policyCode c.policy + (if c.counterMode = .saturate then 4 else 0) + (if c.halfEnable then 8 else 0) := by
  unfold configFlags bitNat
  cases c.counterMode <;> cases c.halfEnable <;> rfl

theorem exec_getDomain {s : State} {domain : Byte} {d : DomId} (h : s.Receives 0x09#8 [domain])
    (hd : domainOf domain = some d) :
    exec (.getDomain domain) s = .next (s.reply 0x09#8 [domain] .ok (s.domainBytes d)) := by
  rw [exec, execGetDomain, request_next _ _ _ s h, hd]

theorem exec_getDomain_arg {s : State} {domain : Byte} (h : s.Receives 0x09#8 [domain])
    (hd : domainOf domain = none) : exec (.getDomain domain) s = .next (s.reply 0x09#8 [domain] .arg []) := by
  rw [exec, execGetDomain, request_next _ _ _ s h, hd]

theorem State.domainBytes_eq (s : State) (d : DomId) :
    let x := s.dom d
    s.domainBytes d =
      beBytes 5 x.config.journalBase.toNat ++ beBytes 4 x.config.capacity ++ beBytes 5 x.config.anchorBase.toNat ++
        [BitVec.ofNat 8 (policyCode x.config.policy + (if x.config.counterMode = .saturate then 4 else 0) +
          (if x.config.halfEnable then 8 else 0))] ++ beBytes 4 x.config.highMark ++
        [BitVec.ofNat 8 (stateCode x.state)] ++ beBytes 4 x.epoch.toNat ++ beBytes 4 x.occupancy ++
        [BitVec.ofNat 8 (pendingCode x.pending)] ++ [BitVec.ofNat 8 (lastOpCode x.lastOp)] ++
        [BitVec.ofNat 8 (resultCode x.lastResult)] ++
        [BitVec.ofNat 8 ((if x.pressure then 1 else 0) + (if x.brokenMark then 2 else 0) +
          (if s.sweepPending d then 4 else 0))] ++
        [BitVec.ofNat 8 x.slotsInUse] ++ beBytes 2 (halfPoints x) := by
  have twice (b : Bool) : 2 * bitNat b = if b then 2 else 0 := by cases b <;> rfl
  have fourfold (b : Bool) : 4 * bitNat b = if b then 4 else 0 := by cases b <;> rfl
  simp only [State.domainBytes, configBytes, leBytes_one, configFlags_eq, twice, fourfold]
  simp only [bitNat]

/-- Settles O15: the bytes of the record by fields, the half-point bits by counter. -/
theorem domainRecordReported : Obligations.DomainRecordReported := by
  unfold Obligations.DomainRecordReported
  refine ⟨fun s domain h => ⟨fun hbad => ?_, fun d hd => ?_⟩, rfl, rfl, rfl, rfl, rfl⟩
  · exact exec_getDomain_arg h (domainOf_beyond hbad)
  · refine ⟨halfPoints (s.dom d), halfPoints_testBit _, halfPoints_lt _, ?_⟩
    rw [exec_getDomain h (domainOf_val hd), State.domainBytes_eq]

end Sys2Proof.Machine
end

section
/-! PROOFS. Steps and resets, and the frames of the management port (chapters 10 and 12): how frames move, how requests are
judged and answered, and what the completion of a reply does. -/

namespace Sys2Proof.Machine

-- One declaration at a time: under the check's memory limit there is no room for many threads' stacks.
set_option Elab.async false

/-! ### Steps -/

/-- Settles O1: by the definition of a step. -/
theorem stepRunsFrontCommand : Obligations.StepRunsFrontCommand := by
  unfold Obligations.StepRunsFrontCommand
  exact fun _ _ _ => rfl

theorem step_idle {s : State} (h : s.pending = []) : step s = .next s.busClock.clockByte := by
  unfold step
  rw [h]

theorem State.busClock_eq (s : State) : s.busClock = { s with time := s.busClock.time } := by
  unfold State.busClock
  split
  · rfl
  · split <;> rfl

theorem State.busClock_waits {s : State} (h : s.inReset = true ∨ s.timeoutsLeft = true) : s.busClock = s :=
  if_pos (by simpa using h)

theorem State.busClock_counts {s : State} (hreset : s.inReset = false) (hleft : s.timeoutsLeft = false)
    (h : s.time.divCount + 1 < s.time.tickDiv) :
    s.busClock = { s with time := { s.time with divCount := s.time.divCount + 1 } } := by
  rw [State.busClock, if_neg (by simp [hreset, hleft]), if_pos h]

theorem State.busClock_ticks {s : State} (hreset : s.inReset = false) (hleft : s.timeoutsLeft = false)
    (h : s.time.tickDiv ≤ s.time.divCount + 1) : s.busClock = s.advanceTick := by
  rw [State.busClock, if_neg (by simp [hreset, hleft]), if_neg (by omega)]

theorem State.clockByte_time (s : State) : s.clockByte.time = s.time := by
  obtain ⟨_, _, h⟩ := s.clockByte_eq
  rw [h]

/-- No byte completes in reset, with nothing clocked, or where the next one comes with its command (R161). -/
theorem State.clockByte_waits {s : State}
    (h : s.inReset = true ∨ s.pins.clocking = [] ∨ s.frame.midway = false) : s.clockByte = s := by
  unfold State.clockByte
  split
  · next b rest hc =>
    refine if_neg fun hif => ?_
    rw [Bool.and_eq_true, Bool.not_eq_true'] at hif
    obtain ⟨hreset, hmid⟩ := hif
    rcases h with h | h | h
    · rw [h] at hreset; cases hreset
    · rw [h] at hc; cases hc
    · rw [h] at hmid; cases hmid
  · rfl

/-- Otherwise the byte clocked completes (R161). -/
theorem State.clockByte_takes {s : State} {b : Option Byte} {rest : List (Option Byte)} (hreset : s.inReset = false)
    (hmid : s.frame.midway = true) (hc : s.pins.clocking = b :: rest) :
    s.clockByte = { s with
      pins := { s.pins with clocking := rest }, frame := (b.map s.frame.takeByte).getD s.frame } := by
  unfold State.clockByte
  rw [hc]
  exact if_pos (by rw [hreset, hmid]; rfl)

theorem FrameEngine.midway_request {f : FrameEngine} (h : f.state = .request) :
    f.midway = true ↔ f.expected ≠ some (f.request.length + 1) := by
  simp [FrameEngine.midway, h]

theorem FrameEngine.midway_reply {f : FrameEngine} (h : f.state = .reply) :
    f.midway = true ↔ f.index + 1 < f.reply.length := by
  simp [FrameEngine.midway, h]

theorem FrameEngine.midway_outside {f : FrameEngine} (h : f.state = .idle ∨ f.state = .trail) : f.midway = false := by
  rcases h with h | h <;> simp [FrameEngine.midway, h]

/-- Settles O2: the bus clock by what it waits for, the byte by the state of the frame engine. -/
theorem idleStepIsOneBusClockAndByte : Obligations.IdleStepIsOneBusClockAndByte := by
  unfold Obligations.IdleStepIsOneBusClockAndByte
  intro s hpending
  obtain ⟨time, hclock⟩ : ∃ time, s.busClock = { s with time := time } := ⟨_, s.busClock_eq⟩
  obtain ⟨frame, clocking, hbyte⟩ := s.busClock.clockByte_eq
  have frame_eq : s.busClock.frame = s.frame := by rw [hclock]
  have pins_eq : s.busClock.pins = s.pins := by rw [hclock]
  have reset_eq : s.busClock.inReset = s.inReset := by rw [State.inReset, State.inReset, pins_eq]
  have same (h : s.inReset = true ∨ s.pins.clocking = [] ∨ s.frame.midway = false) :
      s.busClock.clockByte = s.busClock := State.clockByte_waits (by rwa [reset_eq, pins_eq, frame_eq])
  have stays (h : s.inReset = true ∨ s.pins.clocking = [] ∨ s.frame.midway = false) :
      s.busClock.clockByte.frame = s.frame ∧ s.busClock.clockByte.pins = s.pins := by
    rw [same h]
    exact ⟨frame_eq, pins_eq⟩
  have takes {b : Option Byte} {rest : List (Option Byte)} (hreset : s.inReset = false)
      (hc : s.pins.clocking = b :: rest) (hmid : s.frame.midway = true) :
      s.busClock.clockByte.pins.clocking = rest ∧
        s.busClock.clockByte.frame = (b.map s.frame.takeByte).getD s.frame := by
    rw [State.clockByte_takes (reset_eq.trans hreset) (by rwa [frame_eq]) (by rwa [pins_eq]), frame_eq]
    exact ⟨rfl, rfl⟩
  refine ⟨s.busClock.clockByte, step_idle hpending, ?_, fun hreset => ?_, fun hleft => ?_,
    fun hreset hleft => ⟨fun hlt => ?_, fun hge => ?_⟩, fun h => ?_, fun hreset b rest hc => ⟨fun hst => ?_, fun hst => ?_⟩⟩
  · rw [hbyte, hclock]
  · rw [same (.inl hreset), State.busClock_waits (.inl hreset)]
  · rw [State.clockByte_time, State.busClock_waits (.inr hleft)]
  · rw [State.clockByte_time, State.busClock_counts hreset hleft hlt]
  · rw [State.clockByte_time, State.busClock_ticks hreset hleft hge]
    rfl
  · refine stays (.inr (h.imp_right ?_))
    exact FrameEngine.midway_outside
  · have hmid := FrameEngine.midway_request hst
    refine ⟨fun hlast => stays (.inr (.inr ?_)), fun hmore => ?_⟩
    · exact Bool.eq_false_iff.2 fun hm => hmid.1 hm hlast
    · obtain ⟨hrest, hframe⟩ := takes hreset hc (hmid.2 hmore)
      refine ⟨hrest, fun hb => ?_, fun v hb hfirst => ?_, fun v hb hlater => ?_⟩
      · rw [hframe, hb]
        rfl
      · rw [hframe, hb, Option.map_some, Option.getD_some, FrameEngine.takeByte_opcode hst hfirst, expectedLength]
        congr 2
        omega
      · rw [hframe, hb, Option.map_some, Option.getD_some, FrameEngine.takeByte_later hst hlater]
  · have hmid := FrameEngine.midway_reply hst
    refine ⟨fun hlast => stays (.inr (.inr ?_)), fun hmore => ?_⟩
    · exact Bool.eq_false_iff.2 fun hm => absurd (hmid.1 hm) (by omega)
    · obtain ⟨hrest, hframe⟩ := takes hreset hc (hmid.2 hmore)
      refine ⟨hrest, fun hb => ?_, fun hb => ?_⟩
      · rw [hframe, hb]
        rfl
      · obtain ⟨v, rfl⟩ := Option.ne_none_iff_exists'.1 hb
        rw [hframe, Option.map_some, Option.getD_some, FrameEngine.takeByte_reply hst]

/-! ### Reset and supply -/

theorem State.inReset_eq_false_iff (s : State) : s.inReset = false ↔ s.pins.supply = .stable ∧ s.pins.rstN = true := by
  simp [State.inReset]

/-- Settles O3: each command by its definition, the reset by the two levels. -/
theorem resetAndSupplyCommands : Obligations.ResetAndSupplyCommands := by
  unfold Obligations.ResetAndSupplyCommands
  refine fun s => ⟨rfl, rfl, rfl, rfl, fun h => ?_, fun h => ?_, s.inReset_eq_false_iff⟩
  · rw [exec, execSupplyStable, if_pos h]
  · rw [exec, execSupplyStable, if_neg h]

/-- Settles O4: block by block. -/
theorem resetStateValues : Obligations.ResetStateValues := by
  unfold Obligations.ResetStateValues
  intro s p
  have way (i : Fin 512) (w : Fin 4) : (State.reset.filterSet i).ways[w] = FilterEntry.reset := reset_way i w
  have pointer (i : Fin 512) : (State.reset.filterSet i).pointer = 0 := by
    simp [State.filterSet, State.reset, FilterSet.reset]
  have global (i : Fin 4) : State.reset.globals[i] = 0#32 := by simp [State.reset]
  refine ⟨rfl, rfl, rfl, fun dir => ?_, fun i => reset_region i, fun d => ⟨reset_dom d, rfl⟩, fun k => reset_slot k,
    fun i w => ⟨way i w, pointer i⟩, rfl, rfl, global, rfl, ?_, rfl, rfl, rfl, rfl, rfl, ?_⟩
  · cases dir <;> exact ⟨rfl, rfl, rfl, rfl, rfl, rfl⟩
  · simp [State.irqAsserted, State.resetWith, State.reset, FaultBlock.reset]
  · unfold State.miso
    split <;> rfl

/-! ### Frames -/

/-- Settles O5: each frame command in the state of the engine that it names, and MISO by that state. -/
theorem frameEngineMoves : Obligations.FrameEngineMoves := by
  unfold Obligations.FrameEngineMoves
  refine fun s => ⟨fun hreset hcs => ?_, fun hreset => ⟨fun hcs => ?_, fun hcs hst => ?_, fun hst => ?_, fun hst => ?_,
    fun hst hran => ?_, fun hst hran => ?_⟩, fun h => ?_, fun hcs => ⟨fun hst => ?_, fun hst b hb => ?_, fun hst => ?_⟩⟩
  · rw [exec, execFrameStart, if_pos hcs, if_pos hreset]
    rfl
  · rw [exec, execFrameStart, if_pos hcs, hreset]
    rfl
  · rw [exec, execFrameEnd, hcs, hst]
    rfl
  · rw [exec, execCutReply, whileRunning_next _ s hreset, if_pos hst]
    rfl
  · rw [exec, execShortFrame, whileRunning_next _ s hreset, if_pos hst]
    rfl
  · rw [exec, execLongFrame, whileRunning_next _ s hreset, hst, hran]
    rfl
  · rw [exec, execLongFrame, whileRunning_next _ s hreset, hst, hran]
    rfl
  · unfold State.miso
    split
    · rfl
    · next hcs =>
      rcases h with h | h
      · exact absurd h hcs
      · rw [h]
  · rw [State.miso, hcs, hst]
    rfl
  · rw [State.miso, hcs, hst, if_neg (by decide), List.getD_eq_getElem?_getD, hb]
    rfl
  · rw [State.miso, hcs, hst]
    rfl

/-! ### Requests judged and answered -/

theorem argumentCount_unknown {opcode : Byte} (h : opcode = 0 ∨ 12 < opcode.toNat) : argumentCount opcode = none := by
  have hn : opcode.toNat = 0 ∨ 12 < opcode.toNat := h.imp_left fun h0 => by rw [h0]; rfl
  unfold argumentCount
  split
  case h_13 => rfl
  all_goals omega

theorem replyCount_unknown {opcode : Byte} (h : opcode = 0 ∨ 12 < opcode.toNat) : replyCount opcode = 0 := by
  have hn : opcode.toNat = 0 ∨ 12 < opcode.toNat := h.imp_left fun h0 => by rw [h0]; rfl
  unfold replyCount
  split <;> omega

theorem replyBytes_ok (opcode : Byte) (data : List Byte) :
    replyBytes opcode .ok data = (0x00#8 :: data) ++ [crc8 (0x00#8 :: data)] := rfl

theorem replyBytes_not_ok (opcode : Byte) {status : Status} (h : status ≠ .ok) (data : List Byte) :
    replyBytes opcode status data = (statusByte status :: List.replicate (replyCount opcode) 0x00#8) ++
      [crc8 (statusByte status :: List.replicate (replyCount opcode) 0x00#8)] := by
  rw [replyBytes, if_neg h]

/-- Settles O6: the CRC byte judged, and the twelve opcodes told from the others. -/
theorem unjudgedRequestsChangeNothing : Obligations.UnjudgedRequestsChangeNothing := by
  unfold Obligations.UnjudgedRequestsChangeNothing
  refine fun s => ⟨fun opcode args check h hlen hcheck => ⟨_, rfl, ?_⟩, fun opcode h hunknown => ?_⟩
  · have bad : (decide ((opcode :: args ++ [check]).length = expectedLength opcode) &&
        decide (crc8 (opcode :: args ++ [check]).dropLast ≠ (opcode :: args ++ [check]).getLastD 0x00#8)) = true := by
      have hlast : (opcode :: args ++ [check]).getLastD 0x00#8 = check := by
        rw [List.getLastD_eq_getLast?, List.getLast?_concat, Option.getD_some]
      rw [List.dropLast_concat, hlast, Bool.and_eq_true, decide_eq_true_eq, decide_eq_true_eq]
      exact ⟨by simp [expectedLength, hlen], hcheck.symm⟩
    rw [exec, execCrcMismatch, inRequest_next _ _ s h]
    refine congrArg _ ((if_pos bad).trans ?_)
    rw [State.answer, replyBytes_not_ok _ (by decide)]
    simp [statusByte]
  · rw [exec, execUnknownOpcode, request_next _ _ _ s h, argumentCount_unknown hunknown]
    dsimp only
    rw [State.reply, State.answer, replyBytes_not_ok _ (by decide), replyCount_unknown hunknown]
    rfl

/-- Settles O7: the reply by its status, the lengths by opcode. -/
theorem replyLayout : Obligations.ReplyLayout := by
  unfold Obligations.ReplyLayout
  refine ⟨fun s opcode args data status => ?_, ⟨rfl, rfl, rfl, rfl, rfl⟩, by decide,
    fun opcode h => ⟨argumentCount_unknown h, replyCount_unknown h⟩⟩
  have hlen : (requestBytes opcode args).length = args.length + 2 := by simp [requestBytes]
  by_cases hok : status = .ok
  · subst hok
    refine ⟨0x00#8 :: data, fun _ => rfl, fun h => absurd rfl h, ?_⟩
    rw [State.reply, State.answer, hlen, replyBytes_ok]
    rfl
  · refine ⟨_, fun h => absurd h hok, fun _ => rfl, ?_⟩
    rw [State.reply, State.answer, hlen, replyBytes_not_ok _ hok]
    rfl

/-! ### The completion of a reply -/

theorem exec_replyComplete {s : State} (hreset : s.inReset = false) (hst : s.frame.state = .reply) :
    exec .replyComplete s = .next { s.completeReply with
      frame := { s.completeReply.frame with state := .trail, index := s.completeReply.frame.reply.length } } := by
  rw [exec, execReplyComplete, whileRunning_next _ s hreset, hst]

/-- Settles O8: by what the frame has latched. -/
theorem replyCompletionEffects : Obligations.ReplyCompletionEffects := by
  unfold Obligations.ReplyCompletionEffects
  intro s hreset hst
  refine ⟨fun r hl => ?_, fun d i v left hl hwrap hsat => ?_, fun i v hl => ?_, fun hl => ?_⟩ <;>
    rw [exec_replyComplete hreset hst]
  · have done : s.completeReply = { s with faults := { s.faults with queue := s.faults.queue.tail } } := by
      rw [State.completeReply, hl]
    rw [done]
  · have value : subtracted (s.dom d).config.counterMode (s.dom d).counters[i] v = left := by
      cases hm : (s.dom d).config.counterMode with
      | wrap => exact (hwrap hm).symm
      | saturate =>
        refine BitVec.eq_of_toNat_eq ?_
        rw [hsat hm, subtracted, BitVec.toNat_ofNat, Nat.mod_eq_of_lt]
        have := (s.dom d).counters[i].isLt
        omega
    have done : s.completeReply = s.setDom d { s.dom d with counters := (s.dom d).counters.set i left } := by
      rw [State.completeReply, hl, ← value]
      rfl
    rw [done]
    rfl
  · have done : s.completeReply = { s with globals := s.globals.set i (s.globals[i] - v) } := by
      rw [State.completeReply, hl]
      rfl
    rw [done]
  · have done : s.completeReply = s := by
      rcases hl with hl | ⟨sel, v, hl⟩ <;> rw [State.completeReply, hl]
    rw [done]

/-! ### The requests that read the part -/

theorem selectorOf_domain {b : Byte} {d : DomId} {i : Fin 12} (h : b.toNat = 16 * d.val + i.val) :
    selectorOf b = some (.domain d i) := by
  have hd := d.isLt
  have hi := i.isLt
  have high : b.toNat / 16 = d.val := by omega
  have low : b.toNat % 16 = i.val := by omega
  unfold selectorOf
  simp only [high, low, hd, hi, dite_true]

theorem selectorOf_global {b : Byte} {i : Fin 4} (h : b.toNat = 0xF0 + i.val) : selectorOf b = some (.global i) := by
  have hi := i.isLt
  have high : b.toNat / 16 = 15 := by omega
  have low : b.toNat % 16 = i.val := by omega
  unfold selectorOf
  simp only [high, low, hi]
  simp

theorem selectorOf_beyond {b : Byte} (h : (4 ≤ b.toNat / 16 ∧ b.toNat / 16 ≠ 15) ∨
    (b.toNat / 16 < 4 ∧ 12 ≤ b.toNat % 16) ∨ (b.toNat / 16 = 15 ∧ 4 ≤ b.toNat % 16)) : selectorOf b = none := by
  unfold selectorOf
  dsimp only
  rcases h with h | h | h
  · rw [dif_neg (by omega), if_neg (by omega)]
  · rw [dif_pos (by omega), dif_neg (by omega)]
  · rw [dif_neg (by omega), if_pos (by omega), dif_neg (by omega)]

theorem subtractOf_flag (sub : Bool) : subtractOf (if sub then 1#8 else 0#8) = some sub := by cases sub <;> rfl

theorem subtractOf_beyond {b : Byte} (h : 1 < b.toNat) : subtractOf b = none := by
  have h0 : b ≠ 0#8 := fun hb => by rw [hb] at h; exact absurd h (by decide)
  have h1 : b ≠ 1#8 := fun hb => by rw [hb] at h; exact absurd h (by decide)
  rw [subtractOf, if_neg h0, if_neg h1]

theorem exec_getCounter {s : State} {selector subtract : Byte} {sel : CounterSel} {sub : Bool}
    (h : s.Receives 0x0B#8 [selector, subtract]) (hsel : selectorOf selector = some sel)
    (hsub : subtractOf subtract = some sub) :
    exec (.getCounter selector subtract) s = .next
      ((s.setLatch (.counter sel (s.counterValue sel) sub)).reply 0x0B#8 [selector, subtract] .ok
        (beBytes 4 (s.counterValue sel).toNat)) := by
  rw [exec, execGetCounter, request_next _ _ _ s h, hsel, hsub]

theorem exec_getCounter_arg {s : State} {selector subtract : Byte} (h : s.Receives 0x0B#8 [selector, subtract])
    (hnone : selectorOf selector = none ∨ subtractOf subtract = none) :
    exec (.getCounter selector subtract) s = .next (s.reply 0x0B#8 [selector, subtract] .arg []) := by
  rw [exec, execGetCounter, request_next _ _ _ s h]
  rcases hnone with hnone | hnone <;> rw [hnone]
  cases selectorOf selector <;> rfl

/-- The sixteen bytes of TAKE_FAULT, field by field: an absent field reads zero (R179). -/
theorem faultBytes_eq (r : FaultRecord) (domain initiator code : Byte) (address position : List Byte)
    (hd : ((r.domain.map Fin.val).getD 0) = domain.toNat)
    (hi : ((r.initiator.map BitVec.toNat).getD 0) = initiator.toNat)
    (ha : beBytes 5 ((r.address.map BitVec.toNat).getD 0) = address) (hp : beBytes 2 (r.position.getD 0) = position)
    (hc : (r.code.map respCode).getD 0 = code.toNat) :
    faultBytes r = [BitVec.ofNat 8 (kindCode r.kind), BitVec.ofNat 8
        ((if r.domain = none then 0 else 1) + (if r.initiator = none then 0 else 2) +
          (if r.address = none then 0 else 4) + (if r.position = none then 0 else 8) +
          (if r.code = none then 0 else 16))] ++ beBytes 4 r.stamp.toNat ++
      [domain, initiator] ++ address ++ position ++ [code] := by
  have present {α : Type} (o : Option α) (n : Nat) : n * bitNat o.isSome = if o = none then 0 else n := by
    cases o <;> simp [bitNat]
  have first : bitNat r.domain.isSome = if r.domain = none then 0 else 1 := by rw [← present, one_mul]
  rw [faultBytes, hd, hi, ha, hp, hc]
  simp only [leBytes_one, present, first, BitVec.ofNat_toNat, BitVec.setWidth_eq]
  simp

/-- Settles O9: each request by its definition, the selector by its two halves, the record's bytes field by field. -/
theorem readingRequestsReplyAndLatch : Obligations.ReadingRequestsReplyAndLatch := by
  unfold Obligations.ReadingRequestsReplyAndLatch
  refine ⟨fun s => ⟨fun h => ?_, fun h => ?_, fun d i sub selector subtract h hsel hsub => ?_,
    fun i sub selector subtract h hsel hsub => ?_, fun selector subtract h hbad => ?_,
    fun h => ⟨fun r rest hq => ?_, fun hq => ?_⟩⟩, fun r => ?_, rfl⟩
  · rw [exec, execIdent, request_next _ _ _ s h]
    rfl
  · rw [exec, execGetStatus, request_next _ _ _ s h]
    simp only [State.statusBytes, leBytes_one]
  · exact exec_getCounter h (selectorOf_domain hsel) (hsub ▸ subtractOf_flag sub)
  · exact exec_getCounter h (selectorOf_global hsel) (hsub ▸ subtractOf_flag sub)
  · refine exec_getCounter_arg h ?_
    rcases hbad with hb | hb | hb | hb
    · exact .inl (selectorOf_beyond (.inl hb))
    · exact .inl (selectorOf_beyond (.inr (.inl hb)))
    · exact .inl (selectorOf_beyond (.inr (.inr hb)))
    · exact .inr (subtractOf_beyond hb)
  · rw [exec, execTakeFault, request_next _ _ _ s h, hq]
    rfl
  · rw [exec, execTakeFault, request_next _ _ _ s h, hq]
    rfl
  · intro present domain initiator code address position hd0 hd hi0 hi ha0 ha hp0 hp hc0 hc
    refine faultBytes_eq r domain initiator code address position ?_ ?_ ?_ ?_ ?_
    · rcases hr : r.domain with _ | d
      · rw [hd0 hr]; rfl
      · exact (hd d hr).symm
    · rcases hr : r.initiator with _ | i
      · rw [hi0 hr]; rfl
      · exact (hi i hr).symm
    · rcases hr : r.address with _ | a
      · rw [ha0 hr]; rfl
      · exact (ha a hr).symm
    · rcases hr : r.position with _ | p
      · rw [hp0 hr]; rfl
      · exact (hp p hr).symm
    · rcases hr : r.code with _ | c
      · rw [hc0 (.inl hr)]; rfl
      · by_cases hok : c = .okay
        · rw [hc0 (.inr (hok ▸ hr)), hok]; rfl
        · rw [hc c hr hok]
          exact if_neg hok

end Sys2Proof.Machine
end

section
/-! PROOFS. The evaluation of a request (chapters 1, 3 and 5): the lines it touches, the decision on it, and how each decision
is carried out; and the counters that these count in. -/

namespace Sys2Proof.Machine

-- One declaration at a time: under the check's memory limit there is no room for many threads' stacks.
set_option Elab.async false

/-! ### The lines of a request -/

@[simp] theorem mem_insertLine (x y : Line) (ls : List Line) : y ∈ insertLine x ls ↔ y = x ∨ y ∈ ls := by
  induction ls with
  | nil => simp [insertLine]
  | cons z ls ih =>
    unfold insertLine
    split
    · simp
    · split
      · next h => simp [h]
      · rw [List.mem_cons, ih, List.mem_cons]
        tauto

theorem mem_touchedLines (q : Request) (l : Line) :
    l ∈ touchedLines q ↔ ∃ b ∈ touchedBytes q, l = BitVec.ofNat 34 (b / 64) := by
  unfold touchedLines
  induction touchedBytes q with
  | nil => simp
  | cons b bs ih =>
    rw [List.foldr_cons, mem_insertLine, ih, List.exists_mem_cons_iff]
    rfl

@[simp] theorem mem_bytesOf (r : Nat × Nat) (b : Nat) : b ∈ bytesOf r ↔ r.1 ≤ b ∧ b < r.2 := by
  simp only [bytesOf, List.mem_map, List.mem_range]
  constructor
  · rintro ⟨i, hi, rfl⟩
    omega
  · rintro ⟨hle, hlt⟩
    exact ⟨b - r.1, by omega, by omega⟩

/-- The bytes of a beat by the kind of burst, in the words of R2. -/
def InBeat (h : Header) (k b : Nat) : Prop :=
  let size := beatBytes h.size
  let first := h.addr.toNat
  let aligned := first / size * size
  (h.burst = .incr ∧ k = 0 ∧ first ≤ b ∧ b < aligned + size) ∨
    (h.burst = .incr ∧ 0 < k ∧ aligned + k * size ≤ b ∧ b < aligned + (k + 1) * size) ∨
    (h.burst = .fixed ∧ first ≤ b ∧ b < aligned + size) ∨
    (h.burst = .wrap ∧
      let span := h.len * size
      let start := first / span * span + (first % span + k * size) % span
      start ≤ b ∧ b < start + size)

theorem alignedAddr_eq (h : Header) : alignedAddr h = h.addr.toNat / beatBytes h.size * beatBytes h.size :=
  (Nat.div_mul_self_eq_mod_sub_self).symm

theorem beatRange_iff (h : Header) (k b : Nat) : (beatRange h k).1 ≤ b ∧ b < (beatRange h k).2 ↔ InBeat h k b := by
  unfold beatRange InBeat
  cases hb : h.burst with
  | incr =>
    simp only [alignedAddr_eq, Nat.succ_mul]
    by_cases hk : k = 0
    · simp [hk]
    · simp [hk, Nat.pos_of_ne_zero hk, Nat.add_assoc]
  | fixed => simp [alignedAddr_eq]
  | wrap =>
    have offset (a span : Nat) : a - (a - a % span) = a % span := by
      have := Nat.mod_le a span
      omega
    simp only [offset]
    simp [Nat.div_mul_self_eq_mod_sub_self]

theorem mem_touchedBytes_read {q : Request} (h : q.kind = .read) (b : Nat) :
    b ∈ touchedBytes q ↔ ∃ k, k < q.header.len ∧ InBeat q.header k b := by
  unfold touchedBytes
  rw [h]
  simp [extent, beatRange_iff]

theorem mem_touchedBytes_write {q : Request} (h : q.kind = .write) (hlen : q.data.length = q.header.len) (b : Nat) :
    b ∈ touchedBytes q ↔ ∃ k w, q.data[k]? = some w ∧ InBeat q.header k b ∧ w.strobes.getLsbD (b % 8) = true := by
  unfold touchedBytes
  rw [h]
  simp only [List.mem_flatMap, List.mem_filter, mem_bytesOf, strobed]
  constructor
  · rintro ⟨p, hp, hbytes, hstrobe⟩
    obtain ⟨k, hk, rfl⟩ := List.getElem_of_mem hp
    rw [List.length_zip] at hk
    rw [List.getElem_zip] at hbytes hstrobe
    refine ⟨k, q.data[k], List.getElem?_eq_getElem _, ?_, hstrobe⟩
    rw [← beatRange_iff]
    simpa [extent] using hbytes
  · rintro ⟨k, w, hw, hbeat, hstrobe⟩
    obtain ⟨hk, rfl⟩ := List.getElem?_eq_some_iff.1 hw
    have hzip : k < ((extent q.header).zip q.data).length := by simp [extent, hlen]; omega
    refine ⟨((extent q.header).zip q.data)[k], List.getElem_mem hzip, ?_⟩
    rw [List.getElem_zip]
    refine ⟨?_, hstrobe⟩
    rw [← beatRange_iff] at hbeat
    simpa [extent] using hbeat

/-- Settles O24: the lines of the touched bytes, and the touched bytes beat by beat. -/
theorem requestTouchesLines : Obligations.RequestTouchesLines := by
  unfold Obligations.RequestTouchesLines
  refine fun q => ⟨touchedLines_pairwise q, fun hread l => ?_, fun hwrite hlen l => ?_⟩
  · rw [mem_touchedLines]
    simp only [mem_touchedBytes_read hread]
    exact ⟨fun ⟨b, ⟨k, hk, hb⟩, hl⟩ => ⟨k, b, hk, hb, hl⟩, fun ⟨k, b, hk, hb, hl⟩ => ⟨b, ⟨k, hk, hb⟩, hl⟩⟩
  · rw [mem_touchedLines]
    simp only [mem_touchedBytes_write hwrite hlen]
    exact ⟨fun ⟨b, ⟨k, w, hw, hb, hs⟩, hl⟩ => ⟨k, b, w, hw, hb, hs, hl⟩,
      fun ⟨k, b, w, hw, hb, hs, hl⟩ => ⟨b, ⟨k, w, hw, hb, hs⟩, hl⟩⟩

/-! ### Decisions -/

theorem State.orderBlocked_iff (s : State) (e : Entry) : s.orderBlocked e = true ↔
    ∃ x ∈ s.hold, x.req.header.id = e.req.header.id ∧ x.req.kind = e.req.kind ∧ x.arrival < e.arrival := by
  simp [State.orderBlocked, and_assoc]

theorem State.decision_blocked {s : State} {e : Entry} (h : s.orderBlocked e = true) :
    s.decision e = .hold .order [] e.carried := if_pos h

theorem State.decision_pass {s : State} {e : Entry} (h : ¬s.orderBlocked e = true) (hd : e.domain = none) :
    s.decision e = .forward 0 := by
  rw [State.decision, if_neg h, hd]

theorem State.decision_read {s : State} {e : Entry} {d : DomId} (h : ¬s.orderBlocked e = true) (hd : e.domain = some d)
    (hk : e.req.kind = .read) : s.decision e = readTreatment (s.dom d) := by
  rw [State.decision, if_neg h, hd, hk]

theorem State.decision_write {s : State} {e : Entry} {d : DomId} (h : ¬s.orderBlocked e = true) (hd : e.domain = some d)
    (hk : e.req.kind = .write) : s.decision e = s.writeTreatment d e := by
  rw [State.decision, if_neg h, hd, hk]

/-- A domain that is between contents: its requests wait for the end of a roll (R15). -/
def Domain.Rolls (x : Domain) : Prop :=
  x.state = .formatting ∨ x.state = .recovering ∨ x.state = .rolling ∨ (x.state = .draining ∧ x.pending = .rollback)

theorem readTreatment_rolls {x : Domain} (h : x.Rolls) : readTreatment x = .hold .roll [] false := by
  unfold readTreatment
  rcases h with h | h | h | ⟨h, hp⟩ <;> rw [h]
  exact if_pos hp

theorem readTreatment_settled {x : Domain} (h : ¬x.Rolls) : readTreatment x = .forward 0 := by
  unfold readTreatment
  unfold Domain.Rolls at h
  split
  case h_5 hst => exact absurd (.inl hst) h
  case h_6 hst => exact absurd (.inr (.inl hst)) h
  case h_7 hst => exact absurd (.inr (.inr (.inl hst))) h
  case h_8 hst => exact if_neg fun hp => h (.inr (.inr (.inr ⟨hst, hp⟩)))
  all_goals rfl

/-- Settles O25: the table of R15, read state by state. -/
theorem evaluationByDomainState : Obligations.EvaluationByDomainState := by
  unfold Obligations.EvaluationByDomainState
  intro s e behind
  have blocked : s.orderBlocked e = true ↔ behind := s.orderBlocked_iff e
  refine ⟨fun h => State.decision_blocked (blocked.2 h), fun h hd => State.decision_pass (h ∘ blocked.1) hd,
    fun h d hd => ?_⟩
  have free : ¬s.orderBlocked e = true := h ∘ blocked.1
  refine ⟨fun hk => ?_, fun hk => ?_⟩
  · rw [State.decision_read free hd hk]
    exact ⟨readTreatment_rolls, readTreatment_settled⟩
  · rw [State.decision_write free hd hk]
    unfold State.writeTreatment
    dsimp only
    refine ⟨fun hst => ?_, fun hst => ?_, fun hst => ?_, fun hst => ?_, fun hr hst hc => ?_, fun hr hst => ?_,
      fun hr hst hc => ?_, fun hst hc hm => ?_, fun hst hc hm => ?_⟩
    · rw [hst]
    · rw [hst]
    · rw [hst]
    · rw [hst]
    · have hp : (s.dom d).pending = .rollback := by simpa [hst] using hr
      rw [hst, hc]
      exact if_pos hp
    · rcases hr with hr | hr | hr | ⟨hr, -⟩
      · rw [hr]
      · rw [hr]
      · rw [hr]
      · exact absurd hr hst
    · have hp : (s.dom d).pending ≠ .rollback := by simpa [hst] using hr
      rw [hst, hc]
      exact if_neg hp
    · rw [hst, hc, hm]
      rfl
    · rw [hst, hc, hm]
      rfl

theorem State.any_underCapture_iff (s : State) (lines : List Line) : lines.any s.underCapture = true ↔
    ∃ l ∈ lines, ∃ k, (s.slot k).state ≠ .free ∧ (s.slot k).line = l := by
  simp [State.underCapture_iff]

/-- Settles O26: the path in the order of its checks. -/
theorem capturePathDecides : Obligations.CapturePathDecides := by
  unfold Obligations.CapturePathDecides
  intro s d e carried lines hlines
  have huncovered : s.uncoveredLines d e.req = lines := by
    rw [hlines, State.uncoveredLines]
    congr 1
    funext l
    cases s.filterHit d l <;> rfl
  intro x under free
  have hunder : lines.any s.underCapture = true ↔ under := s.any_underCapture_iff lines
  unfold State.writePath
  dsimp only
  rw [huncovered]
  refine ⟨fun hnil => if_pos hnil, fun hu => ?_, fun hne hu => ?_⟩
  · have hne : lines ≠ [] := by
      rintro rfl
      obtain ⟨l, hl, -⟩ := hu
      cases hl
    rw [if_neg hne, if_pos (hunder.2 hu)]
  · rw [if_neg hne, if_neg (hu ∘ hunder.1)]
    refine ⟨fun hc => if_pos hc, fun hc => ?_⟩
    rw [hc, if_neg (by decide)]
    unfold State.allocationDecision
    dsimp only
    refine ⟨fun hfull => ?_, fun hroom => ?_⟩
    · rw [if_pos hfull]
      refine ⟨fun hp => ?_, fun hp => ?_, fun hp => ?_⟩ <;> rw [hp]
    · rw [if_neg (Nat.not_lt.2 hroom)]
      exact ⟨fun hf => if_pos hf, fun hf => if_neg (Nat.not_lt.2 hf)⟩

/-! ### Decisions carried out -/

/-- A forwarding takes the request out of the hold queue and sends it (R93). -/
theorem State.forwardEntry_eq (s : State) (e : Entry) : s.forwardEntry e = (s.without e).sent e := by
  unfold State.forwardEntry State.sent State.without
  cases e.req.kind <;> rfl

theorem State.refuseEntry_eq (s : State) (e : Entry) : s.refuseEntry e = (s.without e).marked e.arrival .refused := rfl

theorem State.journalFull_eq (s : State) (d : DomId) (e : Entry) :
    s.journalFull d e = s.enqueueFault (requestFault .journalFull s.time.tick (some d) e) := rfl

theorem State.enqueueFault_without (s : State) (r : FaultRecord) (e : Entry) :
    (s.without e).enqueueFault r = (s.enqueueFault r).without e := by
  unfold State.enqueueFault
  rw [apply_ite (State.without · e)]
  rfl

theorem State.requestSweep_without (s : State) (d : DomId) (e : Entry) :
    (s.without e).requestSweep d = (s.requestSweep d).without e := by
  rw [State.requestSweep_eq, State.requestSweep_eq]
  rfl

theorem State.enqueueFault_dom (s : State) (r : FaultRecord) (d : DomId) : (s.enqueueFault r).dom d = s.dom d := by
  rw [State.dom, State.dom, State.enqueueFault_domains]

/-- A break forwards the request out of the state that its fault and the break leave (R52). -/
theorem State.breakForward_eq (s : State) (d : DomId) (e : Entry) :
    ((s.journalFull d e).breakDomain d).forwardEntry e = State.sent (State.requestSweep (State.raise
      (((s.without e).enqueueFault (requestFault .journalFull s.time.tick (some d) e)).setDom d
        { s.dom d with state := .broken }) (.broken d)) d) e := by
  rw [State.forwardEntry_eq, State.journalFull_eq, State.breakDomain, ← State.requestSweep_without,
    State.enqueueFault_without, State.updDom, State.enqueueFault_dom]
  rfl

theorem State.enqueueEntry_none {s : State} {e : Entry} (h : e.domain = none) :
    s.enqueueEntry e = { s with hold := s.hold ++ [{ e with deadline := s.deadlineIn s.time.holdTimeout }] } := by
  rw [State.enqueueEntry, h]

theorem State.enqueueEntry_some {s : State} {e : Entry} {d : DomId} (h : e.domain = some d) :
    s.enqueueEntry e =
      State.count { s with hold := s.hold ++ [{ e with deadline := s.deadlineIn s.time.holdTimeout }] } d .held 1 := by
  rw [State.enqueueEntry, h]

theorem State.carryOut_forward_zero (s : State) (keep : State → Entry → State) (e : Entry) :
    s.carryOut keep e (.forward 0) = (s.without e).sent e := by
  rw [State.carryOut, State.forwardCounting, State.forwardEntry_eq]
  cases e.domain <;> rfl

section
variable {s : State} {e : Entry} {d : DomId} (keep : State → Entry → State)

theorem State.carryOut_forward {n : Nat} (hd : e.domain = some d) (hn : 0 < n) :
    s.carryOut keep e (.forward n) = ((s.without e).sent e).count d .filterHits n := by
  rw [State.carryOut, State.forwardCounting, State.forwardEntry_eq, hd]
  exact if_neg (by omega)

theorem State.carryOut_refuseOff (hd : e.domain = some d) :
    s.carryOut keep e .refuseOff = ((s.without e).marked e.arrival .refused).count d .refused 1 := by
  rw [State.carryOut, hd]
  rfl

theorem State.carryOut_refuseFull (hd : e.domain = some d) :
    s.carryOut keep e .refuseFull = (((s.without e).marked e.arrival .refused).count d .refused 1).enqueueFault
      (requestFault .journalFull s.time.tick (some d) e) := by
  have htime : ((s.refuseEntry e).count d .refused 1).time = s.time := by
    obtain ⟨_, _, h⟩ := (s.refuseEntry e).count_eq d .refused 1
    rw [h]
    rfl
  rw [State.carryOut, hd]
  dsimp only
  rw [State.journalFull_eq, htime, State.refuseEntry_eq]

theorem State.carryOut_breakForward (hd : e.domain = some d) :
    s.carryOut keep e .breakForward = State.sent (State.requestSweep (State.raise
      (((s.without e).enqueueFault (requestFault .journalFull s.time.tick (some d) e)).setDom d
        { s.dom d with state := .broken }) (.broken d)) d) e := by
  rw [State.carryOut, hd]
  exact s.breakForward_eq d e

theorem State.carryOut_allocate (hd : e.domain = some d) {region : Fin 16} (hr : e.region = some region)
    (lines : List Line) : s.carryOut keep e (.allocate lines) = keep (s.allocateSlots d region lines)
      { e with wait := .capture, uncovered := lines, own := e.own ++ lines.filter (fun l => decide (l ∉ e.own)),
               carried := false } := by
  rw [State.carryOut, hd, hr]
  rfl

end

/-- Settles O27: decision by decision. -/
theorem decisionsCarriedOut : Obligations.DecisionsCarriedOut := by
  unfold Obligations.DecisionsCarriedOut
  refine ⟨fun s e => ⟨rfl, fun h => State.enqueueEntry_none h, fun d h => State.enqueueEntry_some h⟩,
    fun s e keep => ⟨fun w ls c => rfl, s.carryOut_forward_zero keep e, fun d hd => ⟨fun n hn => ?_, ?_, ?_, ?_, ?_⟩⟩⟩
  · exact State.carryOut_forward keep hd hn
  · exact State.carryOut_refuseOff keep hd
  · exact State.carryOut_refuseFull keep hd
  · exact State.carryOut_breakForward keep hd
  · exact fun region lines hr => State.carryOut_allocate keep hd hr lines

/-! ### Counters -/

theorem incremented_wrap (v : Count) (n : Nat) : (incremented .wrap v n).toNat = (v.toNat + n) % 2 ^ 32 := by
  simp [incremented, BitVec.toNat_add]

theorem incremented_saturate (v : Count) (n : Nat) :
    (incremented .saturate v n).toNat = min (v.toNat + n) (2 ^ 32 - 1) := by
  have hv := v.isLt
  unfold incremented
  dsimp only
  split
  · next h =>
    rw [BitVec.toNat_add, BitVec.toNat_ofNat, Nat.add_mod_mod, Nat.mod_eq_of_lt h]
    omega
  · next h =>
    rw [BitVec.toNat_allOnes]
    omega

/-- Settles O32: the value by the counter's mode, the event by the rise of the half-point bit. -/
theorem countersWrapSaturateAndHalf : Obligations.CountersWrapSaturateAndHalf := by
  unfold Obligations.CountersWrapSaturateAndHalf
  refine ⟨fun s d c n => ⟨incremented (s.dom d).config.counterMode ((s.dom d).counter c) n, fun h => ?_, fun h => ?_,
    fun h => ?_, fun h => ?_⟩, fun s g => rfl⟩
  · rw [h, incremented_wrap]
  · rw [h, incremented_saturate]
  · refine if_pos ?_
    simpa [and_assoc] using h
  · refine if_neg fun hc => h ?_
    simpa [and_assoc] using hc

end Sys2Proof.Machine
end

section
/-! PROOFS. The two ports (chapter 1): which addresses are taken, how a request is classified and evaluated at its acceptance,
what the memory-side port issues, and how responses go upstream. -/

namespace Sys2Proof.Machine

-- One declaration at a time: under the check's memory limit there is no room for many threads' stacks.
set_option Elab.async false

/-! ### Addresses -/

/-- Settles O16: by the two bounds. -/
theorem addressesTakenWhileRoom : Obligations.AddressesTakenWhileRoom := by
  unfold Obligations.AddressesTakenWhileRoom
  refine fun s h hreset => ⟨fun hhold hlists => ?_, fun hfull => ?_⟩
  · have takes : s.takesAddress = true := s.takesAddress_iff.2 ⟨hhold, hlists⟩
    refine ⟨takes, ?_⟩
    rw [exec, execWriteAddressTaken, whileRunning_next _ s hreset, if_pos takes]
  · have refuses : s.takesAddress = false := Bool.eq_false_iff.2 fun htakes => by
      obtain ⟨hhold, hlists⟩ := s.takesAddress_iff.1 htakes
      omega
    refine ⟨refuses, ?_, ?_⟩
    · rw [exec, execWriteAddressTaken, whileRunning_next _ s hreset, refuses]
      rfl
    · rw [exec, execReadRequest, whileRunning_next _ s hreset, refuses]
      rfl

/-! ### Requests presented -/

/-- A request presented has given back no more than its kept place (R1, R86). -/
theorem State.Presents.kept {s u : State} {q : Request} {c : Instr} (h : s.Presents q c u) :
    ∃ kept, u = { s with host := { s.host with kept := kept } } := by
  unfold State.Presents at h
  split at h
  · obtain ⟨-, -, -, rfl⟩ := h
    exact ⟨_, rfl⟩
  · obtain ⟨-, -, rest, -, rfl⟩ := h
    exact ⟨rest, rfl⟩

/-- A request presented is accepted (R1, R7). -/
theorem exec_presents {s u : State} {q : Request} {c : Instr} (hreset : s.inReset = false) (h : s.Presents q c u) :
    exec c s = .next (u.accept q) := by
  obtain ⟨header, kind, data⟩ := q
  cases kind with
  | read =>
    obtain ⟨rfl, hdata, htakes, rfl⟩ := h
    cases hdata
    rw [exec, execReadRequest, whileRunning_next _ _ hreset, if_pos htakes]
  | write =>
    obtain ⟨rfl, hlen, rest, hkept, rfl⟩ := h
    rw [exec, execWriteRequest, whileRunning_next _ _ hreset, hkept]
    exact congrArg _ (if_pos hlen)

/-- Requests that wait for their answers have positions below the next one. -/
def State.FreshArrival (s : State) : Prop := ∀ u ∈ s.host.unanswered, u.arrival ≠ s.host.nextArrival

theorem State.UnansweredOrdered.fresh {s : State} (h : s.UnansweredOrdered) : s.FreshArrival :=
  fun u hu => Nat.ne_of_lt (h.2 u hu)

/-- A mark given to the request that has just entered its list (R19). -/
theorem State.entered_setMark {s : State} (h : s.FreshArrival) (q : Request) (m m' : Mark) :
    (s.entered q m).setMark s.host.nextArrival m' = s.entered q m' := by
  have others : s.host.unanswered.map (fun u => if u.arrival = s.host.nextArrival then { u with mark := m' } else u) =
      s.host.unanswered := by
    conv_rhs => rw [← List.map_id s.host.unanswered]
    exact List.map_congr_left fun u hu => if_neg (h u hu)
  simp only [State.entered, State.setMark, List.map_append, others]
  simp

/-! ### Classification -/

/-- The first element of an ascending list that satisfies a test. -/
theorem find?_eq_of_first {n : Nat} {l : List (Fin n)} (hl : l.Pairwise (· < ·)) {p : Fin n → Bool} {a : Fin n}
    (ha : a ∈ l) (hp : p a = true) (hlow : ∀ b, b < a → p b = false) : l.find? p = some a := by
  induction l with
  | nil => cases ha
  | cons x l ih =>
    rw [List.pairwise_cons] at hl
    rcases List.mem_cons.1 ha with rfl | hmem
    · exact List.find?_cons_of_pos hp
    · rw [List.find?_cons_of_neg (by rw [hlow x (hl.1 a hmem)]; decide)]
      exact ih hl.2 hmem

theorem allDoms_ascending : allDoms.Pairwise (· < ·) := by decide

theorem allRegions_ascending : allRegions.Pairwise (· < ·) := by decide

@[simp] theorem mem_allRegions (i : Fin 16) : i ∈ allRegions := by fin_cases i <;> decide

theorem Region.covers_iff (r : Region) (a : Addr) :
    (r.valid && decide ((regionRange r).1 ≤ a.toNat) && decide (a.toNat < (regionRange r).2)) = true ↔ r.Covers a := by
  simp only [Bool.and_eq_true, decide_eq_true_eq, and_assoc]
  exact Iff.rfl

theorem State.governing_some {s : State} {i : Fin 16} {a : Addr} (h : s.Governs i a) :
    s.governing a.toNat = some i := by
  obtain ⟨hcovers, hlow⟩ := h
  refine find?_eq_of_first allRegions_ascending (mem_allRegions i) ((Region.covers_iff _ a).2 hcovers) fun j hj => ?_
  exact Bool.eq_false_iff.2 fun hc => hlow j hj ((Region.covers_iff _ a).1 hc)

theorem State.governing_none {s : State} {a : Addr} (h : ∀ i : Fin 16, ¬s.regions[i].Covers a) :
    s.governing a.toNat = none :=
  List.find?_eq_none.2 fun i _ => fun hc => h i ((Region.covers_iff _ a).1 hc)

theorem State.meetsGuard_iff (s : State) (d : DomId) (h : Header) :
    (decide ((s.dom d).state ≠ .off) && meetsAreas h (s.dom d).config) = true ↔ s.MeetsGuard d h := by
  simp [State.MeetsGuard]

theorem State.guardMet_some {s : State} {d : DomId} {h : Header} (hd : s.MeetsGuard d h)
    (hlow : ∀ o, o < d → ¬s.MeetsGuard o h) : s.guardMet h = some d :=
  find?_eq_of_first allDoms_ascending (mem_allDoms d) ((s.meetsGuard_iff d h).2 hd) fun o ho =>
    Bool.eq_false_iff.2 fun hc => hlow o ho ((s.meetsGuard_iff o h).1 hc)

theorem State.guardMet_none {s : State} {h : Header} (hnone : ∀ d, ¬s.MeetsGuard d h) : s.guardMet h = none :=
  List.find?_eq_none.2 fun d _ => fun hc => hnone d ((s.meetsGuard_iff d h).1 hc)

theorem State.classify_badBurst {s : State} {q : Request} (h : crossesPage q.header = true ∨ 16 < q.header.len) :
    s.classify q = .badBurst none :=
  if_pos (by rw [Bool.or_eq_true, decide_eq_true_eq]; exact h)

/-- Past the first step, the guards come next (R7). -/
theorem State.classify_inPage {s : State} {q : Request} (hpage : crossesPage q.header = false)
    (hlen : q.header.len ≤ 16) : s.classify q =
      match if q.kind = .write then s.guardMet q.header else none with
      | some d => .guardWrite (some d)
      | none =>
        match s.governing q.header.addr.toNat with
        | some i => classifyRegion i s.regions[i] q
        | none => .evaluate none .pass none := by
  have hstep : ¬(crossesPage q.header || decide (Config.maxBeats < q.header.len)) = true := by
    rw [hpage, Bool.false_or, decide_eq_true_eq]
    exact Nat.not_lt.2 hlen
  exact if_neg hstep

theorem State.classify_guarded {s : State} {q : Request} (hpage : crossesPage q.header = false)
    (hlen : q.header.len ≤ 16) (hk : q.kind = .write) {d : DomId} (hd : s.guardMet q.header = some d) :
    s.classify q = .guardWrite (some d) := by
  rw [State.classify_inPage hpage hlen, if_pos hk, hd]

/-- Past the guards, the region table decides (R7). -/
theorem State.classify_region {s : State} {q : Request} (h : s.PassesGuards q) {i : Fin 16}
    (hi : s.Governs i q.header.addr) : s.classify q = classifyRegion i s.regions[i] q := by
  obtain ⟨hpage, hlen, hguard⟩ := h
  have hnone : (if q.kind = .write then s.guardMet q.header else none) = none := by
    split
    · next hk => exact State.guardMet_none (hguard.resolve_left (by rw [hk]; decide))
    · rfl
  rw [State.classify_inPage hpage hlen, hnone, State.governing_some hi]

theorem State.classify_nowhere {s : State} {q : Request} (h : s.PassesGuards q)
    (hi : ∀ i : Fin 16, ¬s.regions[i].Covers q.header.addr) : s.classify q = .evaluate none .pass none := by
  obtain ⟨hpage, hlen, hguard⟩ := h
  have hnone : (if q.kind = .write then s.guardMet q.header else none) = none := by
    split
    · next hk => exact State.guardMet_none (hguard.resolve_left (by rw [hk]; decide))
    · rfl
  rw [State.classify_inPage hpage hlen, hnone, State.governing_none hi]

/-! ### Refusal at acceptance -/

/-- A request refused at classification (R3, R12 to R14). -/
def State.refusedAt (s : State) (q : Request) (g : GlobalCounter) (kind : FaultKind) (domain : Option DomId) : State :=
  ((s.entered q .refused).countGlobal g).fault kind (domain := domain) (initiator := some q.header.id)
    (address := some q.header.addr)

theorem State.refuseAtAcceptance_eq {s : State} (h : s.FreshArrival) (q : Request) (g : GlobalCounter)
    (kind : FaultKind) (d : Option DomId) :
    (s.entered q .held).refuseAtAcceptance s.host.nextArrival q g kind d = s.refusedAt q g kind d := by
  rw [State.refuseAtAcceptance, State.entered_setMark h]
  rfl

theorem State.accept_badBurst {s : State} {q : Request} (h : s.FreshArrival) {d : Option DomId}
    (hc : s.classify q = .badBurst d) : s.accept q = s.refusedAt q .badBursts .badBurst d := by
  rw [State.accept, hc]
  exact State.refuseAtAcceptance_eq h q _ _ d

theorem State.accept_guardWrite {s : State} {q : Request} (h : s.FreshArrival) {d : Option DomId}
    (hc : s.classify q = .guardWrite d) : s.accept q = s.refusedAt q .guardRefused .guardWrite d := by
  rw [State.accept, hc]
  exact State.refuseAtAcceptance_eq h q _ _ d

/-- Settles O17: by the step of classification that refuses. -/
theorem requestsRefusedAtClassification : Obligations.RequestsRefusedAtClassification := by
  unfold Obligations.RequestsRefusedAtClassification
  intro s u q c hreset hpresents hordered refused
  obtain ⟨kept, hu⟩ := hpresents.kept
  have fresh : u.FreshArrival := by
    rw [hu]
    exact hordered.fresh
  rw [exec_presents hreset hpresents]
  refine ⟨fun hbad => ?_, fun hpage hlen hk d hd hlow => ?_, fun hpass i hi => ⟨fun hm hk => ?_, fun hm hbad => ?_⟩⟩
  · exact congrArg _ (State.accept_badBurst fresh (State.classify_badBurst hbad))
  · have hmet : u.guardMet q.header = some d := by
      rw [hu]
      exact State.guardMet_some (s := s) hd hlow
    exact congrArg _ (State.accept_guardWrite fresh (State.classify_guarded hpage hlen hk hmet))
  · have hclass : u.classify q = .guardWrite none := by
      rw [hu]
      refine (State.classify_region (s := s) hpass hi).trans ?_
      rw [classifyRegion, hm]
      exact if_pos hk
    exact congrArg _ (State.accept_guardWrite fresh hclass)
  · have hclass : u.classify q = .badBurst (some s.regions[i].domain) := by
      rw [hu]
      refine (State.classify_region (s := s) hpass hi).trans ?_
      rw [classifyRegion, hm]
      exact if_pos (by simpa using hbad)
    exact congrArg _ (State.accept_badBurst fresh hclass)

/-! ### The first evaluation -/

theorem State.accept_evaluate {s : State} {q : Request} {region : Option (Fin 16)} {mode : Mode} {domain : Option DomId}
    (hc : s.classify q = .evaluate region mode domain) : s.accept q =
      ((s.entered q .held).countWriteSeen q domain).evaluateFirst (firstEntry s.host.nextArrival q region mode domain) := by
  rw [State.accept, hc]
  rfl

/-- A request that is not held is in no place of the queue (R85). -/
theorem State.without_eq_self {s : State} {e : Entry} (h : ∀ x ∈ s.hold, x.arrival ≠ e.arrival) : s.without e = s := by
  rw [State.without, List.filter_eq_self.2 fun x hx => decide_eq_true (h x hx)]

theorem State.evaluateFirst_of_ne {s : State} {e : Entry} (h : s.decision e ≠ .breakForward) :
    s.evaluateFirst e = s.carryOut State.enqueueEntry e (s.decision e) := by
  unfold State.evaluateFirst
  dsimp only
  split
  · next hd _ => exact absurd hd h
  · rfl

/-- A first evaluation that does not start carried holds no carried entry (R32). -/
theorem State.decision_hold_uncarried {s : State} {e : Entry} (hcarried : e.carried = false) {w : Wait} {ls : List Line}
    {c : Bool} (h : s.decision e = .hold w ls c) : c = false := by
  have path : ∀ d, s.writePath d e false = .hold w ls c → c = false := by
    intro d hd
    unfold State.writePath State.allocationDecision at hd
    dsimp only at hd
    repeat' split at hd
    all_goals cases hd <;> rfl
  by_cases hblocked : s.orderBlocked e = true
  · rw [State.decision_blocked hblocked, hcarried] at h
    cases h
    rfl
  · rcases hdom : e.domain with _ | d
    · rw [State.decision_pass hblocked hdom] at h
      cases h
    · rcases hk : e.req.kind with _ | _
      · rw [State.decision_read hblocked hdom hk] at h
        by_cases hrolls : (s.dom d).Rolls
        · rw [readTreatment_rolls hrolls] at h
          cases h
          rfl
        · rw [readTreatment_settled hrolls] at h
          cases h
      · rw [State.decision_write hblocked hdom hk, State.writeTreatment, hcarried] at h
        split at h
        case h_7 => exact path d h
        case h_8 =>
          rw [if_neg (by decide)] at h
          split at h <;> (cases h; rfl)
        all_goals cases h <;> rfl

/-- The first evaluation finds the queue ordered before its request (R85). -/
theorem State.orderBlocked_first {s : State} (h : s.HoldOrdered) (q : Request) (region : Option (Fin 16)) (mode : Mode)
    (domain : Option DomId) :
    s.orderBlocked (firstEntry s.host.nextArrival q region mode domain) = true ↔ s.HeldAlike q := by
  rw [State.orderBlocked_iff]
  exact ⟨fun ⟨x, hx, hid, hk, _⟩ => ⟨x, hx, hid, hk⟩, fun ⟨x, hx, hid, hk⟩ => ⟨x, hx, hid, hk, h.2 x hx⟩⟩

/-- The first evaluation by its decision, for a state whose queue the request is not in (R7, R88, R93, R94). -/
theorem State.evaluateFirst_forward_zero {s : State} {e : Entry} (hfresh : ∀ x ∈ s.hold, x.arrival ≠ e.arrival)
    (h : s.decision e = .forward 0) : s.evaluateFirst e = s.sent e := by
  rw [State.evaluateFirst_of_ne (by rw [h]; simp), h, State.carryOut_forward_zero, State.without_eq_self hfresh]

theorem State.evaluateFirst_hold {s : State} {e : Entry} {w : Wait} {ls : List Line} {c : Bool}
    (h : s.decision e = .hold w ls c) :
    s.evaluateFirst e = s.enqueueEntry { e with wait := w, uncovered := ls, carried := c } := by
  rw [State.evaluateFirst_of_ne (by rw [h]; simp), h]
  rfl

theorem State.evaluateFirst_breakForward {s : State} {e : Entry} {d : DomId} (hd : e.domain = some d)
    (h : s.decision e = .breakForward) : s.evaluateFirst e =
      (s.carryOut State.enqueueEntry e .breakForward).reevaluate
        ((s.carryOut State.enqueueEntry e .breakForward).waiting d [.capture, .line, .slot, .space]) := by
  rw [← State.breakSet_waiting, State.evaluateFirst, h, hd]

theorem State.allocateSlots_time (s : State) (d : DomId) (region : Fin 16) (lines : List Line) :
    (s.allocateSlots d region lines).time = s.time := by
  obtain ⟨_, _, _, _, h⟩ := s.allocateSlots_eq d region lines
  rw [h]

theorem State.count_time (s : State) (d : DomId) (c : Counter) (n : Nat) : (s.count d c n).time = s.time := by
  obtain ⟨_, _, h⟩ := s.count_eq d c n
  rw [h]

/-- An allocation at a first evaluation: the request takes the tail of the queue with its lines as its own (R48, R88). -/
theorem State.evaluateFirst_allocate {s : State} {e : Entry} {d : DomId} {region : Fin 16} {lines : List Line}
    (hd : e.domain = some d) (hr : e.region = some region) (hown : e.own = []) (h : s.decision e = .allocate lines) :
    s.evaluateFirst e = (s.allocateSlots d region lines).enqueueEntry
      { e with wait := .capture, uncovered := lines, own := lines, carried := false } := by
  have hall : lines.filter (fun l => decide (l ∉ ([] : List Line))) = lines :=
    List.filter_eq_self.2 fun l _ => decide_eq_true List.not_mem_nil
  rw [State.evaluateFirst_of_ne (by rw [h]; simp), h, State.carryOut_allocate _ hd hr, hown, List.nil_append, hall]

theorem State.deadlineIn_congr {s t : State} (h : s.time = t.time) (n : Nat) : s.deadlineIn n = t.deadlineIn n := by
  rw [State.deadlineIn, State.deadlineIn, h]

theorem State.countWriteSeen_none (s : State) (q : Request) : s.countWriteSeen q none = s := by
  unfold State.countWriteSeen
  split
  · next h => cases h
  · rfl

theorem State.countWriteSeen_read (s : State) {q : Request} (hk : q.kind = .read) (d : DomId) :
    s.countWriteSeen q (some d) = s := by
  unfold State.countWriteSeen
  rw [hk]

theorem State.countWriteSeen_write (s : State) {q : Request} (hk : q.kind = .write) (d : DomId) :
    s.countWriteSeen q (some d) = s.count d .writesSeen 1 := by
  unfold State.countWriteSeen
  rw [hk]

/-- Settles O18: an entry without a domain by what is held before it, one with a domain decision by decision. -/
theorem requestsEvaluatedAtAcceptance : Obligations.RequestsEvaluatedAtAcceptance := by
  unfold Obligations.RequestsEvaluatedAtAcceptance
  intro s u q c hreset hpresents hunanswered hordered hpass n deadline
  rw [exec_presents hreset hpresents]
  obtain ⟨kept, rfl⟩ := hpresents.kept
  refine ⟨?_, ?_⟩
  · intro region mode hwhere e
    have hclass : State.classify { s with host := { s.host with kept := kept } } q = .evaluate region mode none := by
      rcases hwhere with ⟨rfl, rfl, hnone⟩ | ⟨i, rfl, hi, hmode, hk⟩
      · exact State.classify_nowhere (s := s) hpass hnone
      · refine (State.classify_region (s := s) hpass hi).trans ?_
        rw [classifyRegion, hmode]
        rcases hk with rfl | ⟨rfl, hk⟩
        · rfl
        · exact if_neg (by rw [hk]; decide)
    rw [State.accept_evaluate hclass, State.countWriteSeen_none]
    have blocked := State.orderBlocked_first hordered q region mode none
    refine ⟨fun halike => congrArg _ ?_, fun halike => congrArg _ ?_⟩
    · exact State.evaluateFirst_forward_zero (fun x hx => Nat.ne_of_lt (hordered.2 x hx))
        (State.decision_pass (halike ∘ blocked.1) rfl)
    · have hd : (State.entered { s with host := { s.host with kept := kept } } q .held).decision e = .hold .order [] false :=
        State.decision_blocked (blocked.2 halike)
      exact (State.evaluateFirst_hold hd).trans (State.enqueueEntry_none rfl)
  · intro i hi hm hburst hexcl d e full enqueued v hwrite hread
    have hclass : State.classify { s with host := { s.host with kept := kept } } q =
        .evaluate (some i) .journal (some d) := by
      refine (State.classify_region (s := s) hpass hi).trans ?_
      rw [classifyRegion, hm]
      exact if_neg (by simp [hburst, hexcl])
    have hv : (State.entered { s with host := { s.host with kept := kept } } q .held).countWriteSeen q (some d) = v := by
      rcases hk : q.kind with _ | _
      · rw [hread hk, State.countWriteSeen_read _ hk]
      · rw [hwrite hk, State.countWriteSeen_write _ hk]
    have hhold : v.hold = s.hold := by
      rcases hk : q.kind with _ | _
      · rw [hread hk]; rfl
      · rw [hwrite hk, State.count_hold]; rfl
    have htime : v.time = s.time := by
      rcases hk : q.kind with _ | _
      · rw [hread hk]; rfl
      · rw [hwrite hk, State.count_time]; rfl
    have alone : v.without e = v := State.without_eq_self fun x hx => by
      rw [hhold] at hx
      exact Nat.ne_of_lt (hordered.2 x hx)
    have hdeadline : ∀ t : State, t.time = s.time → t.deadlineIn t.time.holdTimeout = deadline := fun t ht => by
      rw [State.deadlineIn_congr ht, ht]
    have runs : State.accept { s with host := { s.host with kept := kept } } q = v.evaluateFirst e := by
      rw [State.accept_evaluate hclass, hv]
    rw [runs]
    refine ⟨fun h => congrArg _ ?_, fun hits hpos h => congrArg _ ?_, fun h => congrArg _ ?_, fun h => congrArg _ ?_,
      fun h => ⟨_, rfl, congrArg _ ?_⟩, fun wait lines carried h => ?_, fun lines h => congrArg _ ?_⟩
    · rw [State.evaluateFirst_of_ne (by rw [h]; simp), h, State.carryOut_forward_zero, alone]
    · rw [State.evaluateFirst_of_ne (by rw [h]; simp), h, State.carryOut_forward _ rfl hpos, alone]
    · rw [State.evaluateFirst_of_ne (by rw [h]; simp), h, State.carryOut_refuseOff _ rfl, alone]
      rfl
    · rw [State.evaluateFirst_of_ne (by rw [h]; simp), h, State.carryOut_refuseFull _ rfl, alone, htime]
      rfl
    · rw [State.evaluateFirst_breakForward rfl h, State.carryOut_breakForward _ rfl, alone, htime]
    · have hc : carried = false := State.decision_hold_uncarried rfl h
      subst hc
      refine ⟨rfl, congrArg _ ?_⟩
      rw [State.evaluateFirst_hold h, State.enqueueEntry_some rfl]
      exact congrArg (State.count · d .held 1) (congrArg (fun x => { v with hold := v.hold ++ [x] })
        (congrArg (Entry.mk _ _ _ _ _ _ _ _ _) (hdeadline v htime)))
    · rw [State.evaluateFirst_allocate rfl rfl rfl h, State.enqueueEntry_some rfl]
      have ht : (v.allocateSlots d i lines).time = s.time := (v.allocateSlots_time d i lines).trans htime
      exact congrArg (State.count · d .held 1) (congrArg
        (fun x => { v.allocateSlots d i lines with hold := (v.allocateSlots d i lines).hold ++ [x] })
        (congrArg (Entry.mk _ _ _ _ _ _ _ _ _) (hdeadline _ ht)))

/-! ### The memory-side port -/

/-- The own list's head is ready exactly while some downstream ID from 16 to 31 is held by no own access (R5, R6). -/
theorem ownReady_iff (m : MemSide) : ownReady m = true ↔
    m.own ≠ [] ∧ ∃ n : DownId, 16 ≤ n.toNat ∧ ∀ i ∈ m.issuedOwn, i.id ≠ n := by
  have some_free : ((List.range Config.ownIds).any fun n => idFree m (BitVec.ofNat 5 (Config.ownIds + n))) = true ↔
      ∃ n : DownId, 16 ≤ n.toNat ∧ ∀ i ∈ m.issuedOwn, i.id ≠ n := by
    rw [List.any_eq_true]
    refine ⟨fun ⟨n, _, hfree⟩ => ⟨_, (idFree_iff m _).1 hfree⟩, fun ⟨n, hn, hfree⟩ => ⟨n.toNat - 16, ?_, ?_⟩⟩
    · exact List.mem_range.2 (by show n.toNat - 16 < 16; omega)
    · have same : BitVec.ofNat 5 (Config.ownIds + (n.toNat - 16)) = n := by
        rw [show Config.ownIds + (n.toNat - 16) = n.toNat from Nat.add_sub_cancel' hn, BitVec.ofNat_toNat,
          BitVec.setWidth_eq]
      rw [same]
      exact (idFree_iff m n).2 ⟨hn, hfree⟩
  rw [ownReady, Bool.and_eq_true, decide_eq_true_eq, some_free]

theorem exec_mspIssue_some {s : State} {dir : Dir} {id : DownId} (hreset : s.inReset = false) {t : Turn}
    (h : issueFrom (s.side dir) = some t) :
    exec (.mspIssue dir id) s = .next (s.setSide dir (issueHead (s.side dir) id t)) := by
  rw [exec, execMspIssue, whileRunning_next _ s hreset, h]

/-- Settles O19: by which heads are ready. -/
theorem mspIssueTakesTurns : Obligations.MspIssueTakesTurns := by
  unfold Obligations.MspIssueTakesTurns
  intro s dir id hreset m ready
  refine ⟨fun f rest hf hturn => ?_, fun a rest ha hid hfree hturn => ?_, fun hf hnone => ?_⟩
  · have takes : issueFrom m = some .forwarded := by
      rw [issueFrom, decide_eq_true (p := m.forwarded ≠ []) (by rw [hf]; simp)]
      cases hready : ownReady m with
      | false => rfl
      | true => exact congrArg some (hturn.resolve_left fun hno => hno ((ownReady_iff m).1 hready))
    rw [exec_mspIssue_some hreset takes]
    show Host.Outcome.next (s.setSide dir (issueHead m id .forwarded)) = _
    rw [issueHead, hf]
  · have hready : ownReady m = true := (ownReady_iff m).2 ⟨by rw [ha]; simp, id, hid, hfree⟩
    have takes : issueFrom m = some .own := by
      rw [issueFrom, hready]
      rcases hf : decide (m.forwarded ≠ []) with _ | _
      · rfl
      · exact congrArg some (hturn.resolve_left (of_decide_eq_true hf))
    rw [exec_mspIssue_some hreset takes]
    show Host.Outcome.next (s.setSide dir (issueHead m id .own)) = _
    rw [issueHead, ha]
    exact congrArg (fun x => Host.Outcome.next (s.setSide dir x)) (if_pos ((idFree_iff m id).2 ⟨hid, hfree⟩))
  · have takes : issueFrom m = none := by
      rw [issueFrom, hf, Bool.eq_false_iff.2 fun h => hnone ((ownReady_iff m).1 h)]
      rfl
    rw [exec, execMspIssue, whileRunning_next _ s hreset, show issueFrom (s.side dir) = none from takes]

/-! ### Responses -/

/-- The head of a response list carries the list's ID and direction (R19). -/
theorem State.responseList_head {s : State} {id : InitId} {dir : Dir} {u : Unanswered} {more : List Unanswered}
    (h : s.responseList id dir = u :: more) : u.id = id ∧ u.kind = dir := by
  have hmem : u ∈ s.responseList id dir := by
    rw [h]
    exact List.mem_cons_self
  have hu := (List.mem_filter.1 hmem).2
  rw [Bool.and_eq_true, decide_eq_true_eq, decide_eq_true_eq] at hu
  exact hu

theorem State.giveUpstream_eq (s : State) (u : Unanswered) (resp : MemResp) : s.giveUpstream u resp =
    State.setUp { s with host := { s.host with
        unanswered := s.host.unanswered.filter fun v => decide (v.arrival ≠ u.arrival) } } u.kind
      { s.up u.kind with channel := some { id := u.id, resp := resp } } := by
  rw [State.giveUpstream]
  cases u.kind <;> rfl

theorem State.dropIssued_responseList (s : State) (dir dir' : Dir) (arrival : Nat) (id : InitId) :
    (s.dropIssued dir arrival).responseList id dir' = s.responseList id dir' := by
  rw [State.responseList, State.responseList, State.dropIssued, State.setSide_host]

theorem State.dropIssued_up (s : State) (dir dir' : Dir) (arrival : Nat) :
    (s.dropIssued dir arrival).up dir' = s.up dir' := by
  rw [State.dropIssued, State.setSide_up]

/-- A response that may pass takes the free channel (R19). -/
theorem State.deliver_goes {s : State} {id : InitId} {resp : MemResp} {u : Unanswered} {more : List Unanswered}
    (hlist : s.responseList id (respDir resp) = u :: more) (hwaiting : (s.up (respDir resp)).waiting = [])
    (hmark : u.mark = .forwarded) : s.deliver id resp false = s.giveUpstream u resp := by
  rw [State.deliver, hlist, hwaiting]
  exact if_pos (by rw [hmark]; rfl)

/-- A response that may not pass waits behind those that wait already (R19). -/
theorem State.deliver_waits {s : State} {id : InitId} {resp : MemResp} {busy : Bool} {u : Unanswered}
    {more : List Unanswered} (hlist : s.responseList id (respDir resp) = u :: more)
    (hno : ¬(busy = false ∧ (s.up (respDir resp)).waiting = [] ∧ u.mark = .forwarded)) : s.deliver id resp busy =
      s.setUp (respDir resp)
        { s.up (respDir resp) with waiting := (s.up (respDir resp)).waiting ++ [{ id := id, resp := resp }] } := by
  rw [State.deliver, hlist]
  refine if_neg fun h => hno ?_
  simpa only [Bool.and_eq_true, Bool.not_eq_true', decide_eq_true_eq, and_assoc] using h

theorem respFits_of_beats {q : Request} {resp : MemResp}
    (h : ∀ beats, resp = .read beats → beats.length = q.header.len) : respFits q resp = true := by
  cases resp with
  | read beats => exact decide_eq_true (h beats rfl)
  | write _ => rfl

theorem exec_forwardedResponse {s : State} {id : InitId} {resp : MemResp} {busy : Bool} {f : Forwarded}
    (hreset : s.inReset = false) (hf : s.oldestIssued id (respDir resp) = some f) (hfits : respFits f.req resp = true) :
    (respDir resp = .read → exec (.forwardedResponse id resp busy) s =
      .next ((s.dropIssued (respDir resp) f.arrival).deliver id resp busy)) ∧
    (respDir resp = .write → exec (.forwardedResponse id resp busy) s =
      .next ((s.dropIssued (respDir resp) f.arrival).deliver id resp busy).releaseHeld) := by
  rw [exec, execForwardedResponse, whileRunning_next _ s hreset, hf]
  dsimp only
  rw [if_pos hfits]
  constructor
  · intro h
    rw [h]
  · intro h
    rw [h]

/-- Settles O20: a response passes, or waits. -/
theorem forwardedResponsesPassUpstream : Obligations.ForwardedResponsesPassUpstream := by
  unfold Obligations.ForwardedResponsesPassUpstream
  intro s id resp busy f u more hreset dir hf hbeats hlist t given kept goes
  obtain ⟨huid, hukind⟩ := State.responseList_head hlist
  obtain ⟨hread, hwrite⟩ := exec_forwardedResponse (busy := busy) hreset hf (respFits_of_beats hbeats)
  have hlist' : t.responseList id (respDir resp) = u :: more := (s.dropIssued_responseList _ _ _ _).trans hlist
  have hup : t.up dir = s.up dir := s.dropIssued_up _ _ _
  refine ⟨fun ⟨hbusy, hwaiting, hmark⟩ => ?_, fun hno => ?_⟩
  · have delivered : t.deliver id resp busy = given := by
      rw [hbusy, State.deliver_goes hlist' (hup ▸ hwaiting) hmark, State.giveUpstream_eq, huid, hukind, hup]
    exact ⟨fun h => (hread h).trans (congrArg _ delivered),
      fun h => (hwrite h).trans (congrArg _ (congrArg _ delivered))⟩
  · have delivered : t.deliver id resp busy = kept := by
      rw [State.deliver_waits hlist' (by rw [show t.up (respDir resp) = s.up dir from hup]; exact hno),
        show t.up (respDir resp) = s.up dir from hup]
    exact ⟨fun h => (hread h).trans (congrArg _ delivered),
      fun h => (hwrite h).trans (congrArg _ (congrArg _ delivered))⟩

/-- Settles O21: by the mark of the head. -/
theorem upstreamAndAbsorbedResponses : Obligations.UpstreamAndAbsorbedResponses := by
  unfold Obligations.UpstreamAndAbsorbedResponses
  refine fun s dir id u more hreset => ⟨fun i => ?_, ?_⟩
  · rw [exec, execAbsorbedResponse, whileRunning_next _ s hreset]
  · intro hlist t
    obtain ⟨huid, hukind⟩ := State.responseList_head hlist
    have runs : exec (.upstreamResponse dir id) s = .next (s.answerHead dir u) := by
      rw [exec, execUpstreamResponse, whileRunning_next _ s hreset, hlist]
    rw [runs]
    refine ⟨fun hm hdir => congrArg _ ?_, fun hm hdir => congrArg _ ?_, fun hm r later hw hr => congrArg _ ?_,
      fun hm => congrArg _ ?_⟩
    · rw [State.answerHead, hm]
      dsimp only
      rw [State.giveUpstream_eq, refusalResponse, huid, hukind, hdir]
    · rw [State.answerHead, hm]
      dsimp only
      rw [State.giveUpstream_eq, refusalResponse, huid, hukind, hdir]
    · rw [State.answerHead, hm, hw]
      dsimp only
      rw [if_pos (hr.trans huid.symm), State.giveUpstream_eq, huid, hukind, ← hr]
      cases dir <;> rfl
    · rw [State.answerHead, hm]

/-- The own access of a timed-out ID, where no two own accesses hold one ID (R6, R158). -/
theorem State.timedOutOwn_of_mem {s : State} {dir : Dir} {id : DownId} {i : IssuedOwn}
    (hids : (s.side dir).IdsDistinct) (hi : i ∈ (s.side dir).issuedOwn) (hid : i.id = id) (hout : i.timedOut = true) :
    s.timedOutOwn dir id = some i.access := by
  have found : (s.side dir).issuedOwn.find? (fun j => decide (j.id = id) && j.timedOut) = some i := by
    rcases hf : (s.side dir).issuedOwn.find? (fun j => decide (j.id = id) && j.timedOut) with _ | j
    · have := List.find?_eq_none.1 hf i hi
      simp [hid, hout] at this
    · have hj := List.find?_some hf
      rw [Bool.and_eq_true, decide_eq_true_eq] at hj
      exact hf.trans <| congrArg some (List.inj_on_of_nodup_map hids.1 (List.mem_of_find?_eq_some hf) hi (hj.1.trans hid.symm))
  rw [State.timedOutOwn, found]
  rfl

theorem lateCode_okay {codes : List Code} (h : ∀ c ∈ codes, c = .okay) : lateCode codes = .okay := by
  rw [lateCode, List.find?_eq_none.2 fun c hc => by rw [h c hc]; decide]
  rfl

theorem lateCode_first {before : List Code} {c : Code} {after : List Code} (h : ∀ b ∈ before, b = .okay)
    (hc : c ≠ .okay) : lateCode (before ++ c :: after) = c := by
  rw [lateCode, List.find?_append, List.find?_eq_none.2 fun b hb => by rw [h b hb]; decide,
    List.find?_cons_of_pos (by rw [decide_eq_true hc])]
  rfl

/-- Settles O22: the ID names one access. -/
theorem lateResponsesAbsorbed : Obligations.LateResponsesAbsorbed := by
  unfold Obligations.LateResponsesAbsorbed
  intro s dir id codes i hreset hids hi hid hout t g
  refine ⟨lateCode codes, lateCode_okay, fun before c after hcodes hbefore hc => ?_, ?_⟩
  · rw [hcodes, lateCode_first hbefore hc]
  · rw [exec, execLateResponse, whileRunning_next _ s hreset, State.timedOutOwn_of_mem hids hi hid hout]
    cases dir <;> rfl

end Sys2Proof.Machine
end

section
/-! PROOFS. The line filter's insertions and full sweeps (chapter 4), what an allocation sets (chapter 3), and the work list of
a happening (chapter 5). -/

namespace Sys2Proof.Machine

-- One declaration at a time: under the check's memory limit there is no room for many threads' stacks.
set_option Elab.async false

/-! ### Event flags that stay set -/

/-- An event flag that is set stays set: only the management port clears flags (R153, R155). -/
def FlagKept (e : Event) (s t : State) : Prop := s.flag e = true → t.flag e = true

theorem FlagKept.of_faults {e : Event} {s t : State} (h : t.faults = s.faults) : FlagKept e s t := fun hs => by
  rw [State.flag, h]
  exact hs

theorem State.raise_flagKept (s : State) (e e' : Event) : FlagKept e s (s.raise e') := fun h => by
  have hs : s.faults.flags.getLsbD (eventIndex e) = true := h
  show (s.faults.flags ||| eventBit e').getLsbD (eventIndex e) = true
  rw [BitVec.getLsbD_or, hs, Bool.true_or]

theorem eventIndex_lt (e : Event) : eventIndex e < 19 := by
  cases e with
  | done d | pressure d | broken d | half d =>
    have := d.isLt
    simp only [eventIndex]
    omega
  | fault | faultLost | mgmtErr => decide

theorem State.raise_flag (s : State) (e : Event) : (s.raise e).flag e = true := by
  have hbit : (eventBit e).getLsbD (eventIndex e) = true :=
    (eventBit_getLsbD e ⟨_, eventIndex_lt e⟩).trans (decide_eq_true rfl)
  show (s.faults.flags ||| eventBit e).getLsbD (eventIndex e) = true
  rw [BitVec.getLsbD_or, hbit, Bool.or_true]

theorem FlagKept.trans {e : Event} {s t u : State} (h : FlagKept e s t) (h' : FlagKept e t u) : FlagKept e s u := h' ∘ h

theorem State.count_flagKept (s : State) (e : Event) (d : DomId) (c : Counter) (n : Nat) : FlagKept e s (s.count d c n) := by
  unfold State.count
  dsimp only
  split
  · exact fun h => State.raise_flagKept _ e _ (FlagKept.of_faults (s := s) rfl h)
  · exact .of_faults rfl

theorem State.reserve_flagKept (s : State) (e : Event) (d : DomId) (n : Nat) : FlagKept e s (s.reserve d n) := by
  unfold State.reserve
  dsimp only
  split
  · exact fun h => State.count_flagKept _ e _ _ _ (State.raise_flagKept _ e _ (FlagKept.of_faults (s := s) rfl h))
  · exact .of_faults rfl

theorem State.enqueueFault_flagKept (s : State) (e : Event) (r : FaultRecord) : FlagKept e s (s.enqueueFault r) := by
  unfold State.enqueueFault
  split
  · exact fun h => State.raise_flagKept _ e _ h
  · exact fun h => State.raise_flagKept _ e _ (State.raise_flagKept _ e _ h)

theorem State.filterInsert_flagKept (s : State) (e : Event) (d : DomId) (l : Line) (p : Bool) :
    FlagKept e s (s.filterInsert d l p) := by
  unfold State.filterInsert
  dsimp only
  split
  · exact .of_faults rfl
  · split
    · exact .of_faults rfl
    · exact fun h => State.count_flagKept _ e _ _ _ (FlagKept.of_faults (s := s) rfl h)

theorem flagKept_closed (e : Event) : Closed (FlagKept e) where
  refl _ := id
  trans h h' := h.trans h'
  raise s e' := s.raise_flagKept e e'
  enqueueFault s r := s.enqueueFault_flagKept e r
  countGlobal _ _ := .of_faults rfl
  domain _ _ _ _ := .of_faults rfl
  requestSweep s d := .of_faults (s.requestSweep_faults d)
  setMark _ _ _ := .of_faults rfl
  dropEntry _ _ := .of_faults rfl
  rewrite _ _ _ := .of_faults rfl
  forward s dir _ := .of_faults (s.setSide_faults dir _)
  handOver s a := .of_faults (s.handOver_faults a)
  freeId s dir id := .of_faults (s.freeId_faults dir id)
  timeOutOwn s dir p := .of_faults (s.timeOutOwn_faults dir p)
  handed _ _ _ _ := .of_faults rfl
  filled _ _ _ _ _ := .of_faults rfl
  freeSlot _ _ _ := .of_faults rfl
  allocate s d region lines _ :=
    (s.reserve_flagKept e d lines.length).trans (.of_faults (State.fillSlots_faults d region _ _ _ _))
  insert s d l p := s.filterInsert_flagKept e d l p
  walk _ _ := .of_faults rfl
  waiting _ _ := .of_faults rfl

/-! ### An insertion -/

theorem allWays_ascending : allWays.Pairwise (· < ·) := by decide

section
variable {s : State} {d : DomId} {l : Line}

/-- The lowest way that holds the pair (R73). -/
theorem presentWay_eq {f : FilterSet} {w : Fin 4}
    (hw : f.ways[w].valid = true ∧ f.ways[w].domain = d ∧ f.ways[w].line = l)
    (hlow : ∀ v, v < w → ¬(f.ways[v].valid = true ∧ f.ways[v].domain = d ∧ f.ways[v].line = l)) :
    presentWay f d l = some w := by
  have test : ∀ v : Fin 4,
      (f.ways[v].valid && decide (f.ways[v].domain = d) && decide (f.ways[v].line = l)) = true ↔
        f.ways[v].valid = true ∧ f.ways[v].domain = d ∧ f.ways[v].line = l := fun v => by
    simp only [Bool.and_eq_true, decide_eq_true_eq, and_assoc]
  exact find?_eq_of_first allWays_ascending (mem_allWays w) ((test w).2 hw) fun v hv =>
    Bool.eq_false_iff.2 fun hc => hlow v hv ((test v).1 hc)

theorem presentWay_eq_none {f : FilterSet}
    (hnone : ∀ w : Fin 4, ¬(f.ways[w].valid = true ∧ f.ways[w].domain = d ∧ f.ways[w].line = l)) :
    presentWay f d l = none :=
  List.find?_eq_none.2 fun w _ hc => hnone w (by simpa only [Bool.and_eq_true, decide_eq_true_eq, and_assoc] using hc)

theorem State.spareWay_invalid {f : FilterSet} {w : Fin 4} (hw : f.ways[w].valid = false)
    (hlow : ∀ v : Fin 4, v < w → f.ways[v].valid = true) : s.spareWay f = some w := by
  have found : allWays.find? (fun w => !f.ways[w].valid) = some w :=
    find?_eq_of_first allWays_ascending (mem_allWays w) (by rw [hw]; rfl) fun v hv => by rw [hlow v hv]; rfl
  rw [State.spareWay, found]

theorem State.spareWay_of_valid {f : FilterSet} (hvalid : ∀ w : Fin 4, f.ways[w].valid = true) :
    s.spareWay f = allWays.find? fun w => s.stale f.ways[w] := by
  rw [State.spareWay, List.find?_eq_none.2 fun w _ => by rw [hvalid w]; decide]

theorem State.spareWay_stale {f : FilterSet} (hvalid : ∀ w : Fin 4, f.ways[w].valid = true) {w : Fin 4}
    (hw : s.stale f.ways[w] = true) (hlow : ∀ v : Fin 4, v < w → s.stale f.ways[v] = false) : s.spareWay f = some w :=
  (State.spareWay_of_valid hvalid).trans
    (find?_eq_of_first allWays_ascending (mem_allWays w) hw fun v hv => hlow v hv)

theorem State.spareWay_none {f : FilterSet} (hvalid : ∀ w : Fin 4, f.ways[w].valid = true)
    (hlive : ∀ w : Fin 4, s.stale f.ways[w] = false) : s.spareWay f = none :=
  (State.spareWay_of_valid hvalid).trans (List.find?_eq_none.2 fun w _ => by rw [hlive w]; decide)

/-- An insertion puts the entry into one way of the line's set, and at most counts an eviction (R73 to R75). -/
theorem State.filterInsert_cases (s : State) (d : DomId) (l : Line) (parity : Bool) :
    ∃ (w pointer : Fin 4) (put : State), put = s.setFilterSet (setIndex l)
        { ways := (s.filterSet (setIndex l)).ways.set w { valid := true, domain := d, line := l, parity := parity },
          pointer := pointer } ∧
      (s.filterInsert d l parity = put ∨ ∃ o, s.filterInsert d l parity = put.count o .evictions 1) := by
  unfold State.filterInsert
  dsimp only
  split
  · next w _ => exact ⟨w, _, _, rfl, .inl rfl⟩
  · split
    · next w _ => exact ⟨w, _, _, rfl, .inl rfl⟩
    · exact ⟨_, _, _, rfl, .inr ⟨_, rfl⟩⟩

/-- A counter's increment changes neither whether an entry is live nor the filter (R71). -/
theorem State.count_stale (s : State) (d : DomId) (c : Counter) (n : Nat) (e : FilterEntry) :
    (s.count d c n).stale e = s.stale e := by
  have same : ((s.count d c n).dom e.domain).epoch = (s.dom e.domain).epoch ∧
      ((s.count d c n).dom e.domain).forgets = (s.dom e.domain).forgets := by
    obtain ⟨_, _, h⟩ := s.count_eq d c n
    rw [h]
    show ((s.setDom d _).dom e.domain).epoch = _ ∧ ((s.setDom d _).dom e.domain).forgets = _
    rw [State.setDom_dom]
    split
    · next he => rw [he]; exact ⟨rfl, rfl⟩
    · exact ⟨rfl, rfl⟩
  rw [State.stale, State.stale, same.1, same.2]

theorem State.count_filterSet (s : State) (d : DomId) (c : Counter) (n : Nat) (i : Fin 512) :
    (s.count d c n).filterSet i = s.filterSet i := by
  obtain ⟨_, _, h⟩ := s.count_eq d c n
  rw [h]
  rfl

theorem State.count_filterHit (s : State) (o : DomId) (c : Counter) (n : Nat) (d : DomId) (l : Line) :
    (s.count o c n).filterHit d l = s.filterHit d l := by
  simp only [State.filterHit, State.live, State.count_stale, State.count_filterSet]

/-- A way that holds a valid entry of the pair that is not stale makes the line hit (R72). -/
theorem State.putWay_hit {e : FilterEntry} (hvalid : e.valid = true) (hd : e.domain = d) (hl : e.line = l)
    (hlive : s.stale e = false) (w pointer : Fin 4) : (s.setFilterSet (setIndex l)
      { ways := (s.filterSet (setIndex l)).ways.set w e, pointer := pointer }).filterHit d l = true := by
  rw [State.filterHit_iff]
  refine ⟨w, ?_⟩
  rw [State.setFilterSet_filterSet_self]
  dsimp only
  rw [FilterSet.set_way, if_pos rfl, State.live_iff]
  exact ⟨⟨hvalid, hlive⟩, hd, hl⟩

end

/-- Settles O31: by the way found. -/
theorem insertionChoosesWay : Obligations.InsertionChoosesWay := by
  unfold Obligations.InsertionChoosesWay
  intro s d l parity i f e there put
  refine ⟨fun w hw hlow => ?_, fun hnone => ⟨fun w hw hlow => ?_, fun hvalid => ⟨fun w hw hlow => ?_, fun hlive => ?_⟩⟩,
    fun hlive => ?_⟩
  · have hpresent : presentWay (s.filterSet (setIndex l)) d l = some w := presentWay_eq hw hlow
    rw [State.filterInsert, hpresent]
  · have hpresent : presentWay (s.filterSet (setIndex l)) d l = none := presentWay_eq_none hnone
    have hspare : s.spareWay (s.filterSet (setIndex l)) = some w := State.spareWay_invalid hw hlow
    rw [State.filterInsert, hpresent, hspare]
  · have hpresent : presentWay (s.filterSet (setIndex l)) d l = none := presentWay_eq_none hnone
    have hspare : s.spareWay (s.filterSet (setIndex l)) = some w := State.spareWay_stale hvalid hw hlow
    rw [State.filterInsert, hpresent, hspare]
  · have hpresent : presentWay (s.filterSet (setIndex l)) d l = none := presentWay_eq_none hnone
    have hspare : s.spareWay (s.filterSet (setIndex l)) = none := State.spareWay_none hvalid hlive
    rw [State.filterInsert, hpresent, hspare]
  · obtain ⟨w, pointer, t, rfl, hinsert | ⟨o, hinsert⟩⟩ := s.filterInsert_cases d l parity
    · rw [hinsert]
      exact State.putWay_hit rfl rfl rfl hlive w pointer
    · rw [hinsert, State.count_filterHit]
      exact State.putWay_hit rfl rfl rfl hlive w pointer

/-! ### A full sweep -/

/-- A filter set after a visit of a sweep (R79). -/
def State.sweptSet (s : State) (d : DomId) (f : FilterSet) : FilterSet := { f with ways := f.ways.map (s.sweptEntry d) }

/-- What staleness is judged by stays (R71). -/
def StaleKept (s t : State) : Prop := ∀ e, t.stale e = s.stale e

theorem StaleKept.of_record {s t : State} (h : ∀ d, (t.dom d).epoch = (s.dom d).epoch ∧
    (t.dom d).state = (s.dom d).state ∧ (t.dom d).brokenMark = (s.dom d).brokenMark) : StaleKept s t := fun e => by
  obtain ⟨hepoch, hstate, hmark⟩ := h e.domain
  rw [State.stale, State.stale, Domain.forgets, Domain.forgets, hepoch, hstate, hmark]

theorem HandedFrom.staleKept {s t : State} (h : HandedFrom s t) : StaleKept s t := .of_record fun d => by
  obtain ⟨_, hstate, hepoch, hmark, _⟩ := h.record d
  exact ⟨hepoch, hstate, hmark⟩

theorem StaleKept.sweptSet {s t : State} (h : StaleKept s t) (d : DomId) (f : FilterSet) :
    t.sweptSet d f = s.sweptSet d f := by
  have hentry : t.sweptEntry d = s.sweptEntry d := by
    funext e
    rw [State.sweptEntry, State.sweptEntry, h e]
  rw [State.sweptSet, State.sweptSet, hentry]

theorem State.filterSet_congr {s t : State} (h : t.filter = s.filter) (i : Fin 512) : t.filterSet i = s.filterSet i := by
  rw [State.filterSet, State.filterSet, h]

theorem State.visitSet_filterSet (s : State) (d : DomId) (i j : Fin 512) :
    (s.visitSet d i).filterSet j = if j = i then s.sweptSet d (s.filterSet j) else s.filterSet j := by
  split
  · next h =>
    subst h
    exact s.setFilterSet_filterSet_self j _
  · next h => exact s.setFilterSet_filterSet_of_ne i j _ h

/-- What a number of visits has done to the filter: the sets from a start onward, around the end, are swept (R79, R80). -/
structure SweptFrom (d : DomId) (start : Fin 512) (n : Nat) (s t : State) : Prop where
  visited : ∀ i : Fin 512, (i - start).val < n → t.filterSet i = s.sweptSet d (s.filterSet i)
  other : ∀ i : Fin 512, ¬(i - start).val < n → t.filterSet i = s.filterSet i
  stale : StaleKept s t

/-- The sets from the start onward are the start and those from the next set onward. -/
theorem Fin.sub_lt_succ (i start : Fin 512) (n : Nat) :
    (i - start).val < n + 1 ↔ i = start ∨ (i ≠ start ∧ (i - (start + 1)).val < n) := by
  simp only [Fin.ext_iff, Fin.sub_def, Fin.val_add, ne_eq]
  have hi := i.isLt
  have hs := start.isLt
  have h1 : ((1 : Fin 512) : Nat) = 1 := rfl
  rw [h1]
  omega

theorem State.visits_succ {s t : State} (n : Nat) (h : exec .sweepVisit s = .next t) : s.visits (n + 1) = t.visits n := by
  rw [State.visits, h]

/-- Once its sweep has ended, a domain that does not wait for another has none pending (R77, R80). -/
theorem State.sweepPending_nextSweep {v : State} {q : List DomId} {d : DomId} (h : d ∉ q) :
    State.sweepPending { v with sweep := nextSweep { queue := q, running := none } } d = false := by
  rcases q with _ | ⟨o, q⟩
  · rfl
  · rw [List.mem_cons, not_or] at h
    obtain ⟨hne, hq⟩ := h
    simp [State.sweepPending, nextSweep, sweepFrom, hq, Ne.symm hne]

/-- The set before a start comes last (R79). -/
theorem Fin.sub_next (i : Fin 512) : (i - (i + 1)).val = 511 := by
  simp only [Fin.sub_def, Fin.val_add]
  have hi := i.isLt
  have h1 : ((1 : Fin 512) : Nat) = 1 := rfl
  rw [h1]
  omega

/-- The visits that a running sweep has left sweep as many sets, and end it (R79, R80). -/
theorem State.visits_swept (n : Nat) : ∀ (s : State) (r : RunningSweep), s.inReset = false → s.sweep.running = some r →
    r.left = n + 1 → n < 512 → r.domain ∉ s.sweep.queue →
    (s.visits (n + 1)).sweepPending r.domain = false ∧ SweptFrom r.domain r.next (n + 1) s (s.visits (n + 1)) := by
  induction n with
  | zero =>
    intro s r hreset hrun hleft hn hqueue
    have one : s.visits 1 = s.sweepStep r := s.visits_succ 0 (exec_sweepVisit hreset hrun)
    rw [show 0 + 1 = 1 from rfl, one, s.sweepStep_ends (by omega)]
    have handed := State.releaseHeld_handed { s.visitSet r.domain r.next with sweep := { s.sweep with running := none } }
    generalize State.releaseHeld _ = u at handed ⊢
    obtain ⟨_, _, _, _, _, _, _, hfilter⟩ := handed.conditions
    have hset : ∀ i, State.filterSet { u with sweep := nextSweep { s.sweep with running := none } } i =
        (s.visitSet r.domain r.next).filterSet i := State.filterSet_congr hfilter
    have here : ∀ i : Fin 512, (i - r.next).val < 1 ↔ i = r.next := fun i => by
      rw [show (1 : Nat) = 0 + 1 from rfl, Fin.sub_lt_succ]
      exact ⟨fun h => h.resolve_right fun h' => absurd h'.2 (Nat.not_lt_zero _), .inl⟩
    refine ⟨State.sweepPending_nextSweep hqueue, fun i hi => ?_, fun i hi => ?_, handed.staleKept⟩
    · rw [hset, State.visitSet_filterSet, if_pos ((here i).1 hi)]
    · rw [hset, State.visitSet_filterSet, if_neg fun h => hi ((here i).2 h)]
  | succ n ih =>
    intro s r hreset hrun hleft hn hqueue
    rw [s.visits_succ (n + 1) (exec_sweepVisit hreset hrun), s.sweepStep_goes_on (by omega)]
    set v : State := { s.visitSet r.domain r.next with
      sweep := { s.sweep with running := some { r with next := r.next + 1, left := r.left - 1 } } } with hv
    obtain ⟨hpending, hvisited, hother, hstale⟩ := ih v _ hreset rfl (by simp only [hleft]; rfl) (by omega) hqueue
    have hset : ∀ i, v.filterSet i = (s.visitSet r.domain r.next).filterSet i := fun i => rfl
    have hstale' : StaleKept s v := fun e => rfl
    have last : ¬(r.next - (r.next + 1)).val < n + 1 := by
      rw [Fin.sub_next]
      omega
    refine ⟨hpending, fun i hi => ?_, fun i hi => ?_, fun e => (hstale e).trans (hstale' e)⟩
    · rcases (Fin.sub_lt_succ i r.next (n + 1)).1 hi with rfl | ⟨hne, hlt⟩
      · rw [hother _ last, hset, State.visitSet_filterSet, if_pos rfl]
      · rw [hvisited i hlt, hstale'.sweptSet, hset, State.visitSet_filterSet, if_neg hne]
    · have hne : i ≠ r.next := fun h => hi ((Fin.sub_lt_succ i r.next (n + 1)).2 (.inl h))
      rw [hother i fun h => hi ((Fin.sub_lt_succ i r.next (n + 1)).2 (.inr ⟨hne, h⟩)), hset, State.visitSet_filterSet,
        if_neg hne]

/-- Settles O52: 512 visits sweep every set. -/
theorem fullSweepClearsDomain : Obligations.FullSweepClearsDomain := by
  unfold Obligations.FullSweepClearsDomain
  intro s r hreset hrun hleft hqueue t
  obtain ⟨hpending, hvisited, _, hstale⟩ := State.visits_swept 511 s r hreset hrun hleft (by decide) hqueue
  refine ⟨hpending, ?_⟩
  intro i w e gone
  have hway : (t.filterSet i).ways[w] = s.sweptEntry r.domain e := by
    rw [show t.filterSet i = _ from hvisited i (i - r.next).isLt]
    exact Vector.getElem_map ..
  refine ⟨fun hgone => ?_, fun hkept => ?_, hstale e⟩
  · rw [hway, State.sweptEntry_taken hgone]
  · rw [hway, State.sweptEntry_kept hkept]

/-! ### An allocation -/

section
variable (d : DomId) (region : Fin 16)

/-- The slots that an allocation does not take stay as they are (R48). -/
theorem State.fillSlots_slot_other (ks : List SlotId) : ∀ (s : State) (ls : List Line) (p : Nat) (k : SlotId),
    k ∉ ks.take ls.length → (s.fillSlots d region ks ls p).slot k = s.slot k := by
  induction ks with
  | nil => exact fun _ _ _ _ _ => rfl
  | cons k ks ih =>
    rintro s (_ | ⟨l, ls⟩) p j hj
    · rfl
    · rw [List.length_cons, List.take_succ_cons, List.mem_cons, not_or] at hj
      rw [State.fillSlots_cons, ih _ _ _ _ hj.2, State.fillSlot_slot, if_neg hj.1]

/-- The lowest line takes the lowest slot and the lowest position, and so on upward (R48). -/
theorem State.fillSlots_slot_taken (ks : List SlotId) (hks : ks.Nodup) : ∀ (s : State) (ls : List Line) (p j : Nat)
    (k : SlotId) (l : Line), ks[j]? = some k → ls[j]? = some l →
      (s.fillSlots d region ks ls p).slot k = s.filledSlot d region (s.slot k) l (p + j) := by
  induction ks with
  | nil => exact fun _ _ _ _ _ _ hk => nomatch hk
  | cons k ks ih =>
    obtain ⟨hhead, htail⟩ := List.nodup_cons.1 hks
    rintro s (_ | ⟨l, ls⟩) p (_ | j) k' l' hk hl
    · cases hl
    · cases hl
    · cases hk
      cases hl
      rw [State.fillSlots_cons, State.fillSlots_slot_other d region ks _ _ _ _ fun h => hhead (List.mem_of_mem_take h),
        State.fillSlot_slot, if_pos rfl, Nat.add_zero]
    · rw [List.getElem?_cons_succ] at hk hl
      have hne : k' ≠ k := fun h => hhead (h ▸ List.mem_of_getElem? hk)
      rw [State.fillSlots_cons, ih htail _ _ _ _ _ _ hk hl, State.fillSlot_filledSlot, State.fillSlot_slot, if_neg hne,
        Nat.add_assoc, Nat.add_comm 1 j]

/-- The reads that an allocation hands over at once, slot by slot (R53). -/
theorem State.fillSlots_reads (ks : List SlotId) (hks : ks.Nodup) : ∀ (s : State) (ls : List Line) (p : Nat),
    ls.length ≤ ks.length → ∀ t, t = s.fillSlots d region ks ls p → t.mem.reads = { s.mem.reads with
      own := s.mem.reads.own ++
        ((ks.take ls.length).filter fun k => s.lineClear (t.slot k).line).map fun k => captureRead k (t.slot k) } := by
  induction ks with
  | nil =>
    intro s ls p _ t ht
    rw [show t = s from ht, List.take_nil]
    exact congrArg (fun own : List OwnAccess => { s.mem.reads with own := own }) (List.append_nil _).symm
  | cons k ks ih =>
    obtain ⟨hhead, htail⟩ := List.nodup_cons.1 hks
    rintro s (_ | ⟨l, ls⟩) p hlen t ht
    · rw [show t = s from ht]
      exact congrArg (fun own : List OwnAccess => { s.mem.reads with own := own }) (List.append_nil _).symm
    · subst ht
      have hslot : (s.fillSlots d region (k :: ks) (l :: ls) p).slot k = s.filledSlot d region (s.slot k) l p :=
        State.fillSlots_slot_taken d region (k :: ks) hks s (l :: ls) p 0 k l rfl rfl
      have rest := ih htail (s.fillSlot d region k l p) ls (p + 1) (Nat.le_of_succ_le_succ hlen) _ rfl
      rw [← State.fillSlots_cons] at rest
      rw [rest]
      simp only [State.fillSlot_lineClear, List.length_cons, List.take_succ_cons, List.filter_cons, hslot]
      rw [s.fillSlot_eq]
      have hline : (s.filledSlot d region (s.slot k) l p).line = l := rfl
      rw [hline]
      by_cases hc : s.lineClear l = true
      · rw [if_pos hc, if_pos hc, List.map_cons, hslot, List.append_assoc]
        rfl
      · rw [if_neg hc, if_neg hc, List.append_nil]

end

/-- A reservation that reaches the high mark with the pressure bit 0 (R49). -/
theorem State.reserve_presses {s : State} {d : DomId} {n : Nat} (hp : (s.dom d).pressure = false)
    (hmark : (s.dom d).config.highMark ≤ (s.dom d).occupancy + n) :
    s.reserve d n = (State.raise (s.setDom d { reserved n (s.dom d) with pressure := true }) (.pressure d)).count d
      .pressureEvents 1 := by
  have htwice : ∀ x y : Domain, (s.setDom d x).setDom d y = s.setDom d y := fun x y => by
    simp only [State.setDom, Vector.set_set]
  rw [State.reserve]
  refine (if_pos (by rw [hp, decide_eq_true hmark]; rfl)).trans ?_
  rw [State.updDom, State.setDom_dom_self, htwice]
  rfl

/-- A reservation that does not reach the high mark, or finds the pressure bit 1 (R48, R49). -/
theorem State.reserve_quiet {s : State} {d : DomId} {n : Nat}
    (h : (s.dom d).pressure = true ∨ (s.dom d).occupancy + n < (s.dom d).config.highMark) :
    s.reserve d n = s.setDom d (reserved n (s.dom d)) := by
  rw [State.reserve]
  refine if_neg fun hc => ?_
  rw [Bool.and_eq_true, decide_eq_true_eq, Bool.not_eq_true'] at hc
  rcases h with hp | hlt
  · rw [hp] at hc
    exact absurd hc.2 (by decide)
  · exact absurd hc.1 (Nat.not_le.2 hlt)

/-- Settles O28: the slots by position, the record by whether the high mark is reached. -/
theorem allocationPairsLowestFirst : Obligations.AllocationPairsLowestFirst := by
  unfold Obligations.AllocationPairsLowestFirst
  intro s d region lines free hfree hlen t x taken goes
  obtain ⟨domains, flags, hreserve⟩ := s.reserve_eq d lines.length
  have hfreeSlots : s.freeSlots = free := hfree.symm
  have ht : t = (s.reserve d lines.length).fillSlots d region free lines x.occupancy := by
    rw [← hfreeSlots]
    rfl
  have hnodup : free.Nodup := hfreeSlots ▸ s.freeSlots_nodup
  have hslot : ∀ k, (s.reserve d lines.length).slot k = s.slot k := fun k => by
    rw [hreserve]
    rfl
  have hclear : ∀ l, (s.reserve d lines.length).lineClear l = s.lineClear l := fun l => by
    rw [hreserve]
    rfl
  obtain ⟨pressure, counters, hrecord⟩ := s.reserve_dom_self d lines.length
  have hdom : ∀ o, t.dom o = (s.reserve d lines.length).dom o := s.allocateSlots_dom d region lines
  have hfaults : t.faults = (s.reserve d lines.length).faults := by
    rw [ht]
    exact State.fillSlots_faults d region _ _ _ _
  have hpressed : x.pressure = false → x.config.highMark ≤ x.occupancy + lines.length →
      (t.dom d).pressure = true ∧ t.flag (.pressure d) = true ∧
        ∃ u : State, u = (State.raise (s.setDom d { x with
            occupancy := x.occupancy + lines.length, slotsInUse := x.slotsInUse + lines.length, pressure := true })
          (.pressure d)).count d .pressureEvents 1 ∧ t.dom d = u.dom d ∧ t.faults = u.faults := by
    intro hp hmark
    have hr := State.reserve_presses (s := s) hp hmark
    refine ⟨?_, ?_, _, hr, hdom d, hfaults⟩
    · obtain ⟨cs, fl, hc⟩ := State.count_eq
        (State.raise (s.setDom d { reserved lines.length (s.dom d) with pressure := true }) (.pressure d)) d .pressureEvents 1
      rw [hdom d, hr, hc]
      show ((State.setDom _ d _).dom d).pressure = true
      rw [State.setDom_dom_self]
      show ((s.setDom d _).dom d).pressure = true
      rw [State.setDom_dom_self]
    · rw [State.flag, hfaults, hr]
      exact State.count_flagKept _ (.pressure d) _ _ _ (State.raise_flag _ _)
  have hquiet : x.pressure = true ∨ x.occupancy + lines.length < x.config.highMark →
      t.dom d = { x with occupancy := x.occupancy + lines.length, slotsInUse := x.slotsInUse + lines.length } ∧
        t.faults = s.faults := by
    intro h
    have hr := State.reserve_quiet (s := s) h
    rw [hdom d, hfaults, hr]
    exact ⟨State.setDom_dom_self .., rfl⟩
  refine ⟨fun j k l hk hl => ⟨s.lineClear l, s.lineClear_iff l, ?_⟩, fun k hk => ?_, ?_, ?_, ⟨fun hp => ?_, fun h => ?_⟩,
    fun hp hmark => (hpressed hp hmark).2, hquiet, fun o ho => ?_, ?_, ?_, ?_⟩
  · rw [ht, State.fillSlots_slot_taken d region free hnodup _ _ _ _ _ _ hk hl, hslot, State.filledSlot, State.allocatedSlot,
      hclear, hrecord, hreserve]
    rfl
  · rw [ht, State.fillSlots_slot_other d region free _ _ _ k hk, hslot]
  · rw [hdom d, hrecord]
    rfl
  · rw [hdom d, hrecord]
    rfl
  · by_contra hno
    rw [not_or, Bool.not_eq_true, Nat.not_le] at hno
    rw [(hquiet (.inr hno.2)).1] at hp
    exact absurd (hno.1.symm.trans hp) (by decide)
  · by_cases hp : x.pressure = true
    · rw [(hquiet (.inl hp)).1]
      exact hp
    · exact (hpressed (Bool.eq_false_iff.2 hp) (h.resolve_left hp)).1
  · rw [hdom o, s.reserve_dom_of_ne ho]
  · exact (s.allocateSlots_hold_host d region lines).1
  · obtain ⟨_, _, _, _, h⟩ := s.allocateSlots_eq d region lines
    show (s.allocateSlots d region lines).mem.writes = _
    rw [h]
  · have hreads := State.fillSlots_reads d region free hnodup _ lines x.occupancy hlen t ht
    simp only [hclear] at hreads
    rw [hreads, hreserve]
    rfl

/-! ### The work list of a happening -/

/-- One step of a work list: the lowest entry in it is re-evaluated, and what it releases joins the list (R60, R91). -/
def WorkStep (x y : WorkList) : Prop :=
  ∃ e ∈ x.state.hold, e.arrival ∈ x.left ∧
    (∀ o ∈ x.state.hold, o.arrival ∈ x.left → e.arrival ≤ o.arrival) ∧
    y.state = x.state.carryOut State.replaceEntry e (x.state.decision e) ∧ y.seen = e.arrival :: x.seen ∧
    let leaves := ∀ o ∈ y.state.hold, o.arrival ≠ e.arrival
    let breaks := fun d => e.domain = some d ∧ x.state.decision e = .breakForward
    ∀ a, a ∈ y.left ↔
      (a ∈ x.left ∧ a ≠ e.arrival) ∨ (leaves ∧ a ∈ y.state.behind [e]) ∨
        (∃ d, breaks d ∧ a ∈ y.state.waiting d [.capture, .line, .slot, .space] ∧ a ∉ y.seen)

/-- The re-evaluation of one held entry (R90). -/
def State.reevaluated (s : State) (e : Entry) : State := s.carryOut State.replaceEntry e (s.decision e)

/-- What a re-evaluation leaves in the work list before a break adds the domain's waiters (R91). -/
def State.released (s : State) (e : Entry) (left : List Nat) : List Nat :=
  let rest := left.filter fun a => decide (a ≠ e.arrival)
  if (s.decision e).leaves then addMissing rest ((s.reevaluated e).behind [e]) else rest

/-- What a re-evaluation leaves in the work list (R60, R91). -/
def State.nextLeft (s : State) (e : Entry) (left seen : List Nat) : List Nat :=
  match s.decision e, e.domain with
  | .breakForward, some d =>
    addMissing (s.released e left)
      (((s.reevaluated e).waiting d [.capture, .line, .slot, .space]).filter fun a => decide (a ∉ e.arrival :: seen))
  | _, _ => s.released e left

section
variable {s : State} {todo seen : List Nat} {fuel : Nat}

theorem State.workList_done (h : s.hold.find? (fun e => decide (e.arrival ∈ todo)) = none) :
    State.workList fuel todo seen s = s := by
  cases fuel with
  | zero => rfl
  | succ fuel => rw [State.workList, h]

theorem State.found_mem {e : Entry} (h : s.hold.find? (fun e => decide (e.arrival ∈ todo)) = some e) :
    e ∈ s.hold ∧ e.arrival ∈ todo :=
  ⟨List.mem_of_find?_eq_some h, by simpa using List.find?_some h⟩

theorem State.workList_step {e : Entry} (h : s.hold.find? (fun e => decide (e.arrival ∈ todo)) = some e) :
    State.workList (fuel + 1) todo seen s =
      State.workList fuel (s.nextLeft e todo seen) (e.arrival :: seen) (s.reevaluated e) := by
  rw [State.workList, h, State.nextLeft, State.released, State.reevaluated, ← State.orderWaiters_behind]
  simp only [State.breakSet_waiting] <;> rfl

theorem State.mem_released (e : Entry) (a : Nat) : a ∈ s.released e todo ↔
    (a ∈ todo ∧ a ≠ e.arrival) ∨ ((s.decision e).leaves = true ∧ a ∈ (s.reevaluated e).behind [e]) := by
  rw [State.released]
  split
  · next h => rw [mem_addMissing, List.mem_filter, decide_eq_true_eq, h]; simp
  · next h => rw [List.mem_filter, decide_eq_true_eq]; simp [h]

theorem State.mem_nextLeft (e : Entry) (a : Nat) : a ∈ s.nextLeft e todo seen ↔
    (a ∈ todo ∧ a ≠ e.arrival) ∨ ((s.decision e).leaves = true ∧ a ∈ (s.reevaluated e).behind [e]) ∨
      ∃ d, (e.domain = some d ∧ s.decision e = .breakForward) ∧
        a ∈ (s.reevaluated e).waiting d [.capture, .line, .slot, .space] ∧ a ∉ e.arrival :: seen := by
  rw [← or_assoc, ← State.mem_released, State.nextLeft]
  split
  · next d hdec hdom =>
    rw [mem_addMissing, List.mem_filter, decide_eq_true_eq, hdom]
    refine or_congr_right ⟨fun h => ⟨d, ⟨rfl, hdec⟩, h⟩, fun ⟨d', ⟨hd, _⟩, h⟩ => ?_⟩
    cases hd
    exact h
  · next hother => exact ⟨.inl, fun h => h.resolve_right fun ⟨d, ⟨hdom, hdec⟩, _⟩ => hother d hdec hdom⟩

/-- A re-evaluation neither adds a held entry nor changes the order of those that stay (R90). -/
theorem State.reevaluated_sublist (e : Entry) :
    ((s.reevaluated e).hold.map (·.arrival)).Sublist (s.hold.map (·.arrival)) := by
  rcases s.reevaluated_hold e with ⟨_, hhold⟩ | ⟨_, f, hf, hhold⟩
  · rw [State.reevaluated, hhold]
    exact List.filter_sublist.map _
  · have same : (s.hold.map fun x => if x.arrival = e.arrival then f else x).map (·.arrival) = s.hold.map (·.arrival) := by
      rw [List.map_map]
      refine List.map_congr_left fun x _ => ?_
      show (if x.arrival = e.arrival then f else x).arrival = x.arrival
      split
      · next hx => rw [hf, hx]
      · rfl
    rw [State.reevaluated, hhold, same]

/-- An entry re-evaluated is out of the queue exactly if the decision says so (R90). -/
theorem State.reevaluated_leaves_iff {e : Entry} (he : e ∈ s.hold) :
    (s.decision e).leaves = true ↔ ∀ o ∈ (s.reevaluated e).hold, o.arrival ≠ e.arrival := by
  rcases s.reevaluated_hold e with ⟨hleaves, hhold⟩ | ⟨hstays, f, hf, hhold⟩
  · refine iff_of_true hleaves fun o ho => ?_
    rw [State.reevaluated, hhold, List.mem_filter, decide_eq_true_eq] at ho
    exact ho.2
  · refine iff_of_false (by rw [hstays]; decide) fun hall => hall f ?_ hf
    rw [State.reevaluated, hhold]
    exact List.mem_map.2 ⟨e, he, if_pos rfl⟩

/-- How much a work list can still do: the entries held, and those of them in the list (R91). -/
def State.workLeft (s : State) (todo : List Nat) : Nat :=
  s.hold.length * (s.hold.length + 1) + ((s.hold.map (·.arrival)).filter fun a => decide (a ∈ todo)).length

theorem State.workLeft_le (s : State) (todo : List Nat) : s.workLeft todo ≤ workBound s.hold.length := by
  have hcount := List.length_filter_le (fun a => decide (a ∈ todo)) (s.hold.map (·.arrival))
  rw [List.length_map] at hcount
  have hsquare : workBound s.hold.length = s.hold.length * (s.hold.length + 1) + (s.hold.length + 1) := by
    rw [workBound, Nat.succ_mul]
  rw [State.workLeft, hsquare]
  omega

/-- An entry that stays is taken out of the list, and one that leaves is taken out of the queue (R91). -/
theorem State.workLeft_lt {e : Entry} (he : e ∈ s.hold) (ht : e.arrival ∈ todo) :
    (s.reevaluated e).workLeft (s.nextLeft e todo seen) < s.workLeft todo := by
  rcases hl : (s.decision e).leaves with _ | _
  · have harrivals : (s.reevaluated e).hold.map (·.arrival) = s.hold.map (·.arrival) := by
      refine s.reevaluated_sublist e |>.eq_of_length ?_
      rcases s.reevaluated_hold e with ⟨hleaves, _⟩ | ⟨_, f, _, hhold⟩
      · rw [hl] at hleaves
        cases hleaves
      · rw [State.reevaluated, hhold, List.length_map, List.length_map, List.length_map]
    have hlength : (s.reevaluated e).hold.length = s.hold.length := by
      rw [← List.length_map (f := (·.arrival)), harrivals, List.length_map]
    have hmem : ∀ a, a ∈ s.nextLeft e todo seen → a ∈ todo ∧ a ≠ e.arrival := fun a ha => by
      rcases (State.mem_nextLeft e a).1 ha with h | ⟨h, _⟩ | ⟨d, ⟨_, hdec⟩, _⟩
      · exact h
      · rw [hl] at h
        cases h
      · rw [hdec] at hl
        cases hl
    rw [State.workLeft, State.workLeft, harrivals, hlength]
    refine Nat.add_lt_add_left ?_ _
    have hsub : ((s.hold.map (·.arrival)).filter fun a => decide (a ∈ s.nextLeft e todo seen)).Sublist
        ((s.hold.map (·.arrival)).filter fun a => decide (a ∈ todo)) :=
      List.monotone_filter_right _ fun a ha => decide_eq_true (hmem a (of_decide_eq_true ha)).1
    refine lt_of_le_of_ne hsub.length_le fun heq => ?_
    have hin : e.arrival ∈ (s.hold.map (·.arrival)).filter fun a => decide (a ∈ todo) :=
      List.mem_filter.2 ⟨List.mem_map_of_mem he, decide_eq_true ht⟩
    rw [← hsub.eq_of_length heq, List.mem_filter, decide_eq_true_eq] at hin
    exact (hmem _ hin.2).2 rfl
  · have hlength : (s.reevaluated e).hold.length < s.hold.length := by
      rcases s.reevaluated_hold e with ⟨_, hhold⟩ | ⟨hstays, _⟩
      · rw [State.reevaluated, hhold]
        exact List.length_filter_lt_length_iff_exists.2 ⟨e, he, by simp⟩
      · rw [hl] at hstays
        cases hstays
    have hcount := List.length_filter_le (fun a => decide (a ∈ s.nextLeft e todo seen))
      ((s.reevaluated e).hold.map (·.arrival))
    rw [List.length_map] at hcount
    have hprod : (s.reevaluated e).hold.length * ((s.reevaluated e).hold.length + 1) + (s.reevaluated e).hold.length <
        s.hold.length * (s.hold.length + 1) := by
      nlinarith only [hlength]
    rw [State.workLeft, State.workLeft]
    omega

/-- With steps enough the work list runs to its end, and more steps change nothing (R91). -/
theorem State.workList_stable (fuel : Nat) : ∀ (todo seen : List Nat) (s : State), s.workLeft todo ≤ fuel →
    ∀ n, fuel ≤ n → State.workList n todo seen s = State.workList fuel todo seen s := by
  induction fuel with
  | zero =>
    intro todo seen s hfuel n _
    rcases hf : s.hold.find? (fun e => decide (e.arrival ∈ todo)) with _ | e
    · rw [State.workList_done hf, State.workList_done hf]
    · have := State.workLeft_lt (seen := seen) (State.found_mem hf).1 (State.found_mem hf).2
      omega
  | succ fuel ih =>
    intro todo seen s hfuel n hn
    obtain ⟨m, rfl⟩ : ∃ m, n = m + 1 := ⟨n - 1, by omega⟩
    rcases hf : s.hold.find? (fun e => decide (e.arrival ∈ todo)) with _ | e
    · rw [State.workList_done hf, State.workList_done hf]
    · have := State.workLeft_lt (seen := seen) (State.found_mem hf).1 (State.found_mem hf).2
      rw [State.workList_step hf, State.workList_step hf]
      exact ih _ _ _ (by omega) m (by omega)

theorem State.workList_sublist (fuel : Nat) : ∀ (todo seen : List Nat) (s : State),
    ((State.workList fuel todo seen s).hold.map (·.arrival)).Sublist (s.hold.map (·.arrival)) := by
  induction fuel with
  | zero => exact fun _ _ _ => .refl _
  | succ fuel ih =>
    intro todo seen s
    rcases hf : s.hold.find? (fun e => decide (e.arrival ∈ todo)) with _ | e
    · rw [State.workList_done hf]
    · rw [State.workList_step hf]
      exact (ih _ _ _).trans (State.reevaluated_sublist e)

/-- The first entry found in an ordered queue is the lowest (R85, R91). -/
theorem State.workStep_of_first {e : Entry} (hordered : (s.hold.map (·.arrival)).Pairwise (· < ·))
    (h : s.hold.find? (fun e => decide (e.arrival ∈ todo)) = some e) :
    WorkStep { left := todo, seen := seen, state := s }
      { left := s.nextLeft e todo seen, seen := e.arrival :: seen, state := s.reevaluated e } := by
  obtain ⟨hmem, htodo⟩ := State.found_mem h
  refine ⟨e, hmem, htodo, fun o ho hleft => ?_, rfl, rfl, fun a => ?_⟩
  · obtain ⟨_, before, after, hsplit, hnone⟩ := List.find?_eq_some_iff_append.1 h
    rw [hsplit] at ho hordered
    rcases List.mem_append.1 ho with hbefore | hlater
    · have := hnone o hbefore
      simp only [Bool.not_eq_true', decide_eq_false_iff_not] at this
      exact absurd hleft this
    · rcases List.mem_cons.1 hlater with rfl | hafter
      · exact le_rfl
      · rw [List.map_append, List.map_cons, List.pairwise_append, List.pairwise_cons] at hordered
        exact Nat.le_of_lt (hordered.2.1.1 _ (List.mem_map_of_mem hafter))
  · dsimp only
    rw [← State.reevaluated_leaves_iff hmem]
    exact State.mem_nextLeft e a

/-- A work list runs by its steps to a state in which no held entry is in the list (R91). -/
theorem State.workList_runs (fuel : Nat) : ∀ (todo seen : List Nat) (s : State),
    (s.hold.map (·.arrival)).Pairwise (· < ·) → s.workLeft todo ≤ fuel → ∃ left seen',
      Relation.ReflTransGen WorkStep { left := todo, seen := seen, state := s }
        { left := left, seen := seen', state := State.workList fuel todo seen s } ∧
      ∀ e ∈ (State.workList fuel todo seen s).hold, e.arrival ∉ left := by
  induction fuel with
  | zero =>
    intro todo seen s _ hfuel
    refine ⟨todo, seen, .refl, fun e he ht => ?_⟩
    have := State.workLeft_lt (s := s) (seen := seen) he ht
    omega
  | succ fuel ih =>
    intro todo seen s hordered hfuel
    rcases hf : s.hold.find? (fun e => decide (e.arrival ∈ todo)) with _ | e
    · rw [State.workList_done hf]
      exact ⟨todo, seen, .refl, fun e he => of_decide_eq_false (Bool.eq_false_iff.2 (List.find?_eq_none.1 hf e he))⟩
    · have hless := State.workLeft_lt (seen := seen) (State.found_mem hf).1 (State.found_mem hf).2
      obtain ⟨left, seen', hrun, hend⟩ := ih (s.nextLeft e todo seen) (e.arrival :: seen) (s.reevaluated e)
        (hordered.sublist (State.reevaluated_sublist e)) (by omega)
      rw [State.workList_step hf]
      exact ⟨left, seen', .head (State.workStep_of_first hordered hf) hrun, hend⟩

end

/-- Settles O29: each step takes an entry out of the list or out of the queue. -/
theorem workListRunsEmpty : Obligations.WorkListRunsEmpty := by
  unfold Obligations.WorkListRunsEmpty
  refine ⟨?_, fun s todo => ⟨fun n hn => ?_, State.workList_sublist _ _ _ s⟩⟩
  · intro s todo hordered step
    exact State.workList_runs _ todo [] s (List.pairwise_map.2 hordered.1) (s.workLeft_le todo)
  · exact State.workList_stable _ todo [] s (s.workLeft_le todo) n hn

end Sys2Proof.Machine
end

section
/-! PROOFS. The hand-overs of the part's own accesses (chapters 1 to 4, 6 and 7): the conditions of each, what each of them
does, and what a happening hands over at its end. -/

namespace Sys2Proof.Machine

-- One declaration at a time: under the check's memory limit there is no room for many threads' stacks.
set_option Elab.async false

/-! ### The conditions -/

theorem State.captureReadReady_iff (s : State) (k : SlotId) : s.captureReadReady k = true ↔
    (s.slot k).state = .readOld ∧ (s.slot k).readIssued = false ∧ s.lineWriteOut (s.slot k).line = false ∧
      s.lateReplayTo (s.slot k).line = false := by
  simp only [State.captureReadReady, Bool.and_eq_true, decide_eq_true_eq, Bool.not_eq_true', and_assoc]

theorem State.recordWriteReady_iff (s : State) (k : SlotId) : s.recordWriteReady k = true ↔
    (s.slot k).state = .writeRecord ∧ (s.slot k).writeHanded = false ∧
      s.lateRecordTo (recordAddr (s.dom (s.slot k).domain).config (s.slot k).position) = false := by
  simp only [State.recordWriteReady, Bool.and_eq_true, decide_eq_true_eq, Bool.not_eq_true', and_assoc]

theorem State.anchorClear_iff (s : State) (d : DomId) : s.anchorClear d = true ↔
    s.sweepPending d = false ∧ ((s.dom d).state = .formatting → s.areaWriteOut d = false) ∧
      ((s.dom d).state ≠ .formatting → s.anchorIdHeld d = false) := by
  rw [State.anchorClear, Bool.and_eq_true, Bool.not_eq_true']
  refine and_congr_right fun _ => ?_
  by_cases h : (s.dom d).state = .formatting <;> simp [h]

/-- RECOVER's first anchor read waits and may go (R131). -/
def State.AnchorReadStarts (s : State) (w : Walk) : Prop :=
  w.phase = .anchorRead .waiting ∧ s.anchorIdHeld w.domain = false ∧ s.areaWriteOut w.domain = false

/-- The replay write of a buffered record may go (R123; notes/assumptions/12.md). -/
def State.ReplayWriteGoes (s : State) (w : Walk) (b : Buffered) : Prop :=
  s.lineWriteOut (recordLine b.record) = false ∧ w.writeOut = none ∧ s.replayIdHeld = false

/-- A walk reads its next record: the read before has ended and the buffer is empty (R121). -/
def Walk.Reads (w : Walk) (k : Nat) : Prop :=
  w.phase = .walk ∧ w.readOut = none ∧ w.buffer = none ∧ w.cursor = some k

/-! ### Single hand-overs -/

section
variable {s : State}

theorem State.handCaptureRead_goes {k : SlotId} (h : s.captureReadReady k = true) : s.handCaptureRead k =
    (s.setSlot k { s.slot k with readIssued := true }).withOwn (captureRead k (s.slot k)) := if_pos h

theorem State.handCaptureRead_waits {k : SlotId} (h : ¬s.captureReadReady k = true) : s.handCaptureRead k = s := if_neg h

theorem State.handRecordWrite_goes {k : SlotId} (h : s.recordWriteReady k = true) : s.handRecordWrite k =
    (s.setSlot k { s.slot k with writeHanded := true }).withOwn
      (recordWrite k (s.slot k) (s.dom (s.slot k).domain).config) := if_pos h

theorem State.handRecordWrite_waits {k : SlotId} (h : ¬s.recordWriteReady k = true) : s.handRecordWrite k = s := if_neg h

theorem State.handAnchorWrite_goes {d : DomId} {e : Epoch} {r : OpResult} (hheld : (s.dom d).anchor = .held e r)
    (h : s.anchorClear d = true) : s.handAnchorWrite d =
      (s.setDom d { s.dom d with anchor := .sent e r }).withOwn
        (anchorWrite d (s.dom d) e (s.deadlineIn s.time.memTimeout)) := by
  rw [State.handAnchorWrite, hheld]
  exact if_pos h

theorem State.handAnchorWrite_waits {d : DomId} (h : ∀ e r, (s.dom d).anchor = .held e r → ¬s.anchorClear d = true) :
    s.handAnchorWrite d = s := by
  unfold State.handAnchorWrite
  split
  · next e r hheld => exact if_neg (h e r hheld)
  · rfl

theorem State.handAnchorRead_goes {w : Walk} (hw : s.replay.walk = some w) (h : s.AnchorReadStarts w) :
    s.handAnchorRead = (s.setWalk (some { w with phase := .anchorRead .slot0 })).withOwn
      (anchorRead w.domain (s.dom w.domain).config false (s.deadlineIn s.time.memTimeout)) := by
  obtain ⟨hphase, hid, harea⟩ := h
  rw [State.handAnchorRead, hw]
  exact if_pos (by rw [hphase, hid, harea]; rfl)

theorem State.handAnchorRead_waits (h : ∀ w, s.replay.walk = some w → ¬s.AnchorReadStarts w) : s.handAnchorRead = s := by
  unfold State.handAnchorRead
  split
  · next w hw =>
    refine if_neg fun hc => h w hw ?_
    simp only [Bool.and_eq_true, decide_eq_true_eq, Bool.not_eq_true', and_assoc] at hc
    exact hc
  · rfl

theorem State.handReplayWrite_goes {w : Walk} {b : Buffered} (hw : s.replay.walk = some w) (hb : w.buffer = some b)
    (h : s.ReplayWriteGoes w b) : s.handReplayWrite =
      (s.setWalk (some { w with buffer := none, writeOut := some b.position })).withOwn (replayWrite w.domain b) := by
  obtain ⟨hline, hout, hid⟩ := h
  rw [State.handReplayWrite, hw]
  dsimp only
  rw [hb]
  exact if_pos (by rw [hline, hout, hid]; rfl)

theorem State.handReplayWrite_waits (h : ∀ w b, s.replay.walk = some w → w.buffer = some b → ¬s.ReplayWriteGoes w b) :
    s.handReplayWrite = s := by
  unfold State.handReplayWrite
  split
  · next w hw =>
    split
    · next b hb =>
      refine if_neg fun hc => h w b hw hb ?_
      simp only [Bool.and_eq_true, decide_eq_true_eq, Bool.not_eq_true', and_assoc] at hc
      exact hc
    · rfl
  · rfl

theorem State.issueRecordRead_goes {w : Walk} {k : Nat} (hw : s.replay.walk = some w) (h : w.Reads k) :
    s.issueRecordRead = (s.setWalk (some { w with readOut := some k, cursor := lowerCursor k })).withOwn
      (recordRead w.domain (s.dom w.domain).config k (s.deadlineIn s.time.memTimeout)) := by
  obtain ⟨hphase, hread, hbuffer, hcursor⟩ := h
  rw [State.issueRecordRead, hw]
  refine (if_pos (by rw [hphase, hread, hbuffer]; rfl)).trans ?_
  rw [hcursor]
  rfl

theorem State.issueRecordRead_waits (h : ∀ w k, s.replay.walk = some w → ¬w.Reads k) : s.issueRecordRead = s := by
  unfold State.issueRecordRead
  split
  · next w hw =>
    split
    · next hc =>
      simp only [Bool.and_eq_true, decide_eq_true_eq] at hc
      obtain ⟨⟨hphase, hread⟩, hbuffer⟩ := hc
      split
      · next k hk => exact absurd ⟨hphase, hread, hbuffer, hk⟩ (h w k hw)
      · rfl
    · rfl
  · rfl

end

/-! ### The ISSUE commands -/

theorem anchorRead_slot0 (d : DomId) (c : DomainConfig) (deadline : Option Ticks) : anchorRead d c false deadline =
    { owner := .anchorRead false, domain := d, dir := .read, addr := c.anchorBase, beats := 8, data := [],
      position := none, deadline := deadline } := by
  have haddr : BitVec.ofNat 40 (c.anchorBase.toNat + 0) = c.anchorBase := by
    rw [Nat.add_zero, BitVec.ofNat_toNat, BitVec.setWidth_eq]
  rw [anchorRead, if_neg (by decide), haddr]

theorem exec_formatSlot1Issue {s : State} {d : DomId} (hreset : s.inReset = false) (hst : (s.dom d).state = .formatting) :
    exec (.formatSlot1Issue d) s = .next (s.handAnchorWrite d) := by
  rw [exec, execFormatSlot1Issue, whileRunning_next _ s hreset, if_pos hst]

theorem exec_anchorWriteIssue {s : State} {d : DomId} (hreset : s.inReset = false) (hst : (s.dom d).state ≠ .formatting) :
    exec (.anchorWriteIssue d) s = .next (s.handAnchorWrite d) := by
  rw [exec, execAnchorWriteIssue, whileRunning_next _ s hreset, if_neg hst]

/-- Settles O42: command by command, by the conditions of its access. -/
theorem heldAccessesHandedOver : Obligations.HeldAccessesHandedOver := by
  unfold Obligations.HeldAccessesHandedOver
  intro s hreset deadline
  refine ⟨?_, ?_, ?_, fun w hw hphase => ?_, fun w b hw hb => ?_⟩
  · intro k x hst hissued
    have runs : exec (.captureReadIssue k) s = .next (s.handCaptureRead k) := by
      rw [exec, execCaptureReadIssue, whileRunning_next _ s hreset]
    rw [runs]
    refine ⟨fun hline hlate => congrArg _ ?_, fun hno => congrArg _ ?_⟩
    · exact State.handCaptureRead_goes ((s.captureReadReady_iff k).2 ⟨hst, hissued, hline, hlate⟩)
    · refine State.handCaptureRead_waits fun h => ?_
      obtain ⟨-, -, hline, hlate⟩ := (s.captureReadReady_iff k).1 h
      rcases hno with h' | h'
      · exact absurd (h'.symm.trans hline) (by decide)
      · exact absurd (h'.symm.trans hlate) (by decide)
  · intro k x addr hst hhanded
    have runs : exec (.recordWriteIssue k) s = .next (s.handRecordWrite k) := by
      rw [exec, execRecordWriteIssue, whileRunning_next _ s hreset]
    rw [runs]
    refine ⟨fun hlate => congrArg _ ?_, fun hlate => congrArg _ ?_⟩
    · exact State.handRecordWrite_goes ((s.recordWriteReady_iff k).2 ⟨hst, hhanded, hlate⟩)
    · refine State.handRecordWrite_waits fun h => ?_
      obtain ⟨-, -, hclear⟩ := (s.recordWriteReady_iff k).1 h
      exact absurd (hlate.symm.trans hclear) (by decide)
  · intro d e r x hheld go
    have goes : s.anchorClear d = true → s.handAnchorWrite d = go (anchorUse x.state) :=
      fun hclear => State.handAnchorWrite_goes hheld hclear
    have waits : ¬s.anchorClear d = true → s.handAnchorWrite d = s :=
      fun hno => State.handAnchorWrite_waits fun _ _ _ => hno
    refine ⟨fun hst => ?_, fun hst => ?_⟩
    · rw [exec_formatSlot1Issue hreset hst]
      refine ⟨fun hsweep harea => congrArg _ ?_, fun hno => congrArg _ (waits fun hc => ?_)⟩
      · rw [goes ((s.anchorClear_iff d).2 ⟨hsweep, fun _ => harea, fun h => absurd hst h⟩), hst]
        rfl
      · obtain ⟨hsweep, harea, -⟩ := (s.anchorClear_iff d).1 hc
        rcases hno with h | h
        · exact absurd (h.symm.trans hsweep) (by decide)
        · exact absurd (h.symm.trans (harea hst)) (by decide)
    · have hne : (s.dom d).state ≠ .formatting := by
        rcases hst with h | h | h <;> (rw [show (s.dom d).state = _ from h]; decide)
      rw [exec_anchorWriteIssue hreset hne]
      refine ⟨fun hsweep hid => ?_, fun hno => congrArg _ (waits fun hc => ?_)⟩
      · have hgo := goes ((s.anchorClear_iff d).2 ⟨hsweep, fun h => absurd h hne, fun _ => hid⟩)
        exact ⟨fun h => by rw [hgo, h]; rfl, fun h => by rw [hgo, h]; rfl, fun h => by rw [hgo, h]; rfl⟩
      · obtain ⟨hsweep, -, hid⟩ := (s.anchorClear_iff d).1 hc
        rcases hno with h | h
        · exact absurd (h.symm.trans hsweep) (by decide)
        · exact absurd (h.symm.trans (hid hne)) (by decide)
  · have runs : exec .anchorReadIssue s = .next s.handAnchorRead := by
      rw [exec, execAnchorReadIssue, whileRunning_next _ s hreset]
    rw [runs]
    refine ⟨fun hid harea => congrArg _ ?_, fun hno => congrArg _ ?_⟩
    · rw [State.handAnchorRead_goes hw ⟨hphase, hid, harea⟩, anchorRead_slot0]
      rfl
    · refine State.handAnchorRead_waits fun w' hw' ⟨_, hid, harea⟩ => ?_
      obtain rfl : w = w' := Option.some.inj (hw.symm.trans hw')
      rcases hno with h | h
      · exact absurd (h.symm.trans hid) (by decide)
      · exact absurd (h.symm.trans harea) (by decide)
  · have runs : exec .replayWriteIssue s = .next s.handReplayWrite.issueRecordRead := by
      rw [exec, execReplayWriteIssue, whileRunning_next _ s hreset]
    rw [runs]
    refine ⟨fun hline hout hid => congrArg _ ?_, fun hno => congrArg _ ?_⟩
    · rw [State.handReplayWrite_goes hw hb ⟨hline, hout, hid⟩]
      rfl
    · have waits : s.handReplayWrite = s := State.handReplayWrite_waits fun w' b' hw' hb' ⟨hline, hout, hid⟩ => by
        obtain rfl : w = w' := Option.some.inj (hw.symm.trans hw')
        obtain rfl : b = b' := Option.some.inj (hb.symm.trans hb')
        rcases hno with h | h | h
        · exact absurd (h.symm.trans hline) (by decide)
        · exact h hout
        · exact absurd (h.symm.trans hid) (by decide)
      rw [waits]
      refine State.issueRecordRead_waits fun w' k hw' ⟨_, _, hbuffer, _⟩ => ?_
      obtain rfl : w = w' := Option.some.inj (hw.symm.trans hw')
      rw [hb] at hbuffer
      cases hbuffer

/-! ### What a happening hands over at its end -/

/-- Accesses added to the tails of the two own lists (R5). -/
def State.withOwns (s : State) (reads writes : List OwnAccess) : State :=
  { s with mem := { reads := { s.mem.reads with own := s.mem.reads.own ++ reads }
                    writes := { s.mem.writes with own := s.mem.writes.own ++ writes } } }

theorem State.withOwns_slots (s : State) (r w : List OwnAccess) : (s.withOwns r w).slots = s.slots := rfl

theorem State.withOwns_nil (s : State) : s.withOwns [] [] = s := by
  simp [State.withOwns]

theorem State.withOwn_read (s : State) {a : OwnAccess} (h : a.dir = .read) : s.withOwn a = s.withOwns [a] [] := by
  rw [State.withOwn, h]
  simp [State.withOwns, State.setSide, State.side]

theorem State.withOwn_write (s : State) {a : OwnAccess} (h : a.dir = .write) : s.withOwn a = s.withOwns [] [a] := by
  rw [State.withOwn, h]
  simp [State.withOwns, State.setSide, State.side]

theorem State.withOwns_withOwns (s : State) (r w r' w' : List OwnAccess) :
    (s.withOwns r w).withOwns r' w' = s.withOwns (r ++ r') (w ++ w') := by
  simp [State.withOwns]

/-- The slots' old-line reads and record writes handed over, slot by slot (R5, R53, R57). -/
def State.handSlots (s : State) (ks : List SlotId) : State :=
  ks.foldl (fun t k => (t.handCaptureRead k).handRecordWrite k) s

/-- A slot after its hand-overs. -/
def State.handedSlot (s : State) (k : SlotId) : Slot := { s.slot k with
  readIssued := (s.slot k).readIssued || s.captureReadReady k
  writeHanded := (s.slot k).writeHanded || s.recordWriteReady k }

/-- The old-line read that a slot hands over. -/
def State.readOf (s : State) (k : SlotId) : List OwnAccess :=
  if s.captureReadReady k then [captureRead k (s.slot k)] else []

/-- The record write that a slot hands over. -/
def State.writeOf (s : State) (k : SlotId) : List OwnAccess :=
  if s.recordWriteReady k then [recordWrite k (s.slot k) (s.dom (s.slot k).domain).config] else []

/-! Hand-overs leave every condition of a hand-over as it is. -/

section
variable {s t : State}

theorem HandedFrom.lineWriteOut (h : HandedFrom s t) (l : Line) : t.lineWriteOut l = s.lineWriteOut l := by
  obtain ⟨hout, _⟩ := h.conditions
  rw [State.lineWriteOut, State.lineWriteOut, hout]

theorem HandedFrom.lateReplayTo (h : HandedFrom s t) (l : Line) : t.lateReplayTo l = s.lateReplayTo l := by
  obtain ⟨_, hids, _⟩ := h.conditions
  rw [State.lateReplayTo, State.lateReplayTo, hids]

theorem HandedFrom.lateRecordTo (h : HandedFrom s t) (a : Addr) : t.lateRecordTo a = s.lateRecordTo a := by
  obtain ⟨_, hids, _⟩ := h.conditions
  rw [State.lateRecordTo, State.lateRecordTo, hids]

theorem HandedFrom.replayIdHeld (h : HandedFrom s t) : t.replayIdHeld = s.replayIdHeld := by
  obtain ⟨_, hids, _⟩ := h.conditions
  rw [State.replayIdHeld, State.replayIdHeld, hids]

theorem HandedFrom.anchorIdHeld (h : HandedFrom s t) (d : DomId) : t.anchorIdHeld d = s.anchorIdHeld d := by
  obtain ⟨_, hids, _⟩ := h.conditions
  rw [State.anchorIdHeld, State.anchorIdHeld, hids]

theorem HandedFrom.areaWriteOut (h : HandedFrom s t) (d : DomId) : t.areaWriteOut d = s.areaWriteOut d := by
  obtain ⟨hout, _⟩ := h.conditions
  obtain ⟨hconfig, _⟩ := h.record d
  rw [State.areaWriteOut, State.areaWriteOut, hout, hconfig]

theorem HandedFrom.anchorClear (h : HandedFrom s t) (d : DomId) : t.anchorClear d = s.anchorClear d := by
  obtain ⟨_, _, hsweep, _⟩ := h.conditions
  obtain ⟨_, hstate, _⟩ := h.record d
  rw [State.anchorClear, State.anchorClear, State.sweepPending, State.sweepPending, hsweep, hstate, h.areaWriteOut,
    h.anchorIdHeld]

theorem HandedFrom.deadline (h : HandedFrom s t) :
    t.deadlineIn t.time.memTimeout = s.deadlineIn s.time.memTimeout := by
  obtain ⟨_, _, _, htime, _⟩ := h.conditions
  rw [State.deadlineIn_congr htime, htime]

theorem HandedFrom.config (h : HandedFrom s t) (d : DomId) : (t.dom d).config = (s.dom d).config := by
  obtain ⟨hconfig, _⟩ := h.record d
  exact hconfig

theorem HandedFrom.captureReadReady (h : HandedFrom s t) {k : SlotId} (hk : t.slot k = s.slot k) :
    t.captureReadReady k = s.captureReadReady k := by
  rw [State.captureReadReady, State.captureReadReady, hk, h.lineWriteOut, h.lateReplayTo]

theorem HandedFrom.recordWriteReady (h : HandedFrom s t) {k : SlotId} (hk : t.slot k = s.slot k) :
    t.recordWriteReady k = s.recordWriteReady k := by
  rw [State.recordWriteReady, State.recordWriteReady, hk, h.lateRecordTo, h.config]

theorem HandedFrom.readOf (h : HandedFrom s t) {k : SlotId} (hk : t.slot k = s.slot k) : t.readOf k = s.readOf k := by
  rw [State.readOf, State.readOf, h.captureReadReady hk, hk]

theorem HandedFrom.writeOf (h : HandedFrom s t) {k : SlotId} (hk : t.slot k = s.slot k) : t.writeOf k = s.writeOf k := by
  rw [State.writeOf, State.writeOf, h.recordWriteReady hk, hk, h.config]

theorem HandedFrom.handedSlot (h : HandedFrom s t) {k : SlotId} (hk : t.slot k = s.slot k) :
    t.handedSlot k = s.handedSlot k := by
  rw [State.handedSlot, State.handedSlot, h.captureReadReady hk, h.recordWriteReady hk, hk]

end

theorem State.setSlot_slot_eq (s : State) (k : SlotId) : s.setSlot k (s.slot k) = s := by
  simp [State.setSlot, State.slot]

/-- Both hand-overs of one slot: a slot waits for one access at a time. -/
theorem State.handSlot_eq (s : State) (k : SlotId) : (s.handCaptureRead k).handRecordWrite k =
    (s.setSlot k (s.handedSlot k)).withOwns (s.readOf k) (s.writeOf k) := by
  by_cases hread : s.captureReadReady k = true
  · have reading : ∀ t : State, (t.slot k).state = .readOld → ¬t.recordWriteReady k = true := fun t ht hc => by
      rw [((t.recordWriteReady_iff k).1 hc).1] at ht
      cases ht
    have hst := ((s.captureReadReady_iff k).1 hread).1
    have hslot : (s.handCaptureRead k).slot k = { s.slot k with readIssued := true } := by
      rw [State.handCaptureRead_goes hread, State.withOwn_read _ rfl]
      exact State.setSlot_slot_self ..
    rw [State.handRecordWrite_waits (reading _ (by rw [hslot]; exact hst)), State.handCaptureRead_goes hread,
      State.handedSlot, State.readOf, State.writeOf, hread, Bool.eq_false_iff.2 (reading s hst), if_pos rfl,
      if_neg (by decide), Bool.or_true, Bool.or_false, State.withOwn_read _ rfl]
  · rw [State.handCaptureRead_waits hread, State.handedSlot, State.readOf, if_neg hread, Bool.eq_false_iff.2 hread,
      Bool.or_false]
    by_cases hwrite : s.recordWriteReady k = true
    · rw [State.handRecordWrite_goes hwrite, State.writeOf, if_pos hwrite, hwrite, Bool.or_true, State.withOwn_write _ rfl]
    · rw [State.handRecordWrite_waits hwrite, State.writeOf, if_neg hwrite, Bool.eq_false_iff.2 hwrite, Bool.or_false,
        State.withOwns_nil]
      exact (s.setSlot_slot_eq k).symm

/-- The slots hand over independently of each other (R53, R57). -/
theorem State.handSlots_eq (ks : List SlotId) (hks : ks.Nodup) : ∀ s : State,
    s.handSlots ks = State.withOwns { s with slots := (s.handSlots ks).slots } (ks.flatMap s.readOf)
        (ks.flatMap s.writeOf) ∧
      ∀ k, (s.handSlots ks).slot k = if k ∈ ks then s.handedSlot k else s.slot k := by
  induction ks with
  | nil => exact fun s => ⟨s.withOwns_nil.symm, fun k => (if_neg List.not_mem_nil).symm⟩
  | cons k ks ih =>
    obtain ⟨hhead, htail⟩ := List.nodup_cons.1 hks
    intro s
    set u := (s.handCaptureRead k).handRecordWrite k with hu
    have handed : HandedFrom s u := (s.handCaptureRead_handed k).trans (State.handRecordWrite_handed _ k)
    have hslot : ∀ j, u.slot j = if j = k then s.handedSlot k else s.slot j := fun j => by
      rw [hu, State.handSlot_eq]
      exact s.setSlot_slot k j _
    have other : ∀ j ∈ ks, u.slot j = s.slot j := fun j hj => by
      rw [hslot, if_neg fun h : j = k => hhead (h ▸ hj)]
    obtain ⟨hfields, hslots⟩ := ih htail u
    have hrun : s.handSlots (k :: ks) = u.handSlots ks := rfl
    have hreads : ks.flatMap u.readOf = ks.flatMap s.readOf :=
      List.flatMap_congr fun j hj => handed.readOf (other j hj)
    have hwrites : ks.flatMap u.writeOf = ks.flatMap s.writeOf :=
      List.flatMap_congr fun j hj => handed.writeOf (other j hj)
    rw [hrun]
    refine ⟨?_, fun j => ?_⟩
    · rw [hreads, hwrites] at hfields
      rw [List.flatMap_cons, List.flatMap_cons, ← State.withOwns_withOwns]
      refine hfields.trans ?_
      rw [hu, State.handSlot_eq]
      rfl
    · rw [hslots]
      by_cases hj : j ∈ ks
      · rw [if_pos hj, if_pos (List.mem_cons_of_mem _ hj), handed.handedSlot (other j hj)]
      · rw [if_neg hj, hslot]
        by_cases hjk : j = k
        · rw [if_pos hjk, if_pos (by rw [hjk]; exact List.mem_cons_self), hjk]
        · rw [if_neg hjk, if_neg fun h => (List.mem_cons.1 h).elim hjk hj]

/-- The domains' anchor writes handed over, domain by domain (R5, R29, R82, R110). -/
def State.handDomains (s : State) (ds : List DomId) : State := ds.foldl (fun t d => t.handAnchorWrite d) s

/-- The anchor write that a domain hands over. -/
def State.anchorOf (s : State) (d : DomId) : Option OwnAccess :=
  match (s.dom d).anchor with
  | .held e _ => if s.anchorClear d then some (anchorWrite d (s.dom d) e (s.deadlineIn s.time.memTimeout)) else none
  | _ => none

/-- The record of a domain after its hand-over. -/
def State.handedDom (s : State) (d : DomId) : Domain :=
  match (s.dom d).anchor with
  | .held e r => if s.anchorClear d then { s.dom d with anchor := .sent e r } else s.dom d
  | _ => s.dom d

theorem State.setDom_dom_eq (s : State) (d : DomId) : s.setDom d (s.dom d) = s := by
  simp [State.setDom, State.dom]

theorem State.anchor_cases (s : State) (d : DomId) :
    (∃ e r, (s.dom d).anchor = .held e r ∧ s.anchorClear d = true) ∨
      ∀ e r, (s.dom d).anchor = .held e r → ¬s.anchorClear d = true := by
  by_cases h : ∃ e r, (s.dom d).anchor = .held e r ∧ s.anchorClear d = true
  · exact .inl h
  · exact .inr fun e r hheld hc => h ⟨e, r, hheld, hc⟩

section
variable {s : State} {d : DomId}

theorem State.anchorOf_goes {e : Epoch} {r : OpResult} (hheld : (s.dom d).anchor = .held e r)
    (hclear : s.anchorClear d = true) :
    s.anchorOf d = some (anchorWrite d (s.dom d) e (s.deadlineIn s.time.memTimeout)) := by
  rw [State.anchorOf, hheld]
  exact if_pos hclear

theorem State.anchorOf_waits (h : ∀ e r, (s.dom d).anchor = .held e r → ¬s.anchorClear d = true) :
    s.anchorOf d = none := by
  unfold State.anchorOf
  split
  · next e r hheld => exact if_neg (h e r hheld)
  · rfl

theorem State.handedDom_goes {e : Epoch} {r : OpResult} (hheld : (s.dom d).anchor = .held e r)
    (hclear : s.anchorClear d = true) : s.handedDom d = { s.dom d with anchor := .sent e r } := by
  rw [State.handedDom, hheld]
  exact if_pos hclear

theorem State.handedDom_waits (h : ∀ e r, (s.dom d).anchor = .held e r → ¬s.anchorClear d = true) :
    s.handedDom d = s.dom d := by
  unfold State.handedDom
  split
  · next e r hheld => exact if_neg (h e r hheld)
  · rfl

theorem HandedFrom.anchorOf {t : State} (h : HandedFrom s t) (hd : t.dom d = s.dom d) : t.anchorOf d = s.anchorOf d := by
  rcases s.anchor_cases d with ⟨e, r, hheld, hclear⟩ | hwait
  · rw [State.anchorOf_goes hheld hclear, State.anchorOf_goes (hd ▸ hheld) (by rw [h.anchorClear]; exact hclear), hd,
      h.deadline]
  · rw [State.anchorOf_waits hwait, State.anchorOf_waits fun e r hh => by rw [h.anchorClear]; exact hwait e r (hd ▸ hh)]

theorem HandedFrom.handedDom {t : State} (h : HandedFrom s t) (hd : t.dom d = s.dom d) :
    t.handedDom d = s.handedDom d := by
  rcases s.anchor_cases d with ⟨e, r, hheld, hclear⟩ | hwait
  · rw [State.handedDom_goes hheld hclear, State.handedDom_goes (hd ▸ hheld) (by rw [h.anchorClear]; exact hclear), hd]
  · rw [State.handedDom_waits hwait, State.handedDom_waits fun e r hh => by rw [h.anchorClear]; exact hwait e r (hd ▸ hh),
      hd]

end

theorem State.handDomain_eq (s : State) (d : DomId) : s.handAnchorWrite d =
    (s.setDom d (s.handedDom d)).withOwns [] (s.anchorOf d).toList := by
  rcases s.anchor_cases d with ⟨e, r, hheld, hclear⟩ | hwait
  · rw [State.handAnchorWrite_goes hheld hclear, State.handedDom_goes hheld hclear, State.anchorOf_goes hheld hclear,
      State.withOwn_write _ rfl]
    rfl
  · rw [State.handAnchorWrite_waits hwait, State.handedDom_waits hwait, State.anchorOf_waits hwait, State.setDom_dom_eq]
    exact s.withOwns_nil.symm

/-- The domains hand over independently of each other (R29, R110). -/
theorem State.handDomains_eq (ds : List DomId) (hds : ds.Nodup) : ∀ s : State,
    s.handDomains ds = State.withOwns { s with domains := (s.handDomains ds).domains } [] (ds.filterMap s.anchorOf) ∧
      ∀ d, (s.handDomains ds).dom d = if d ∈ ds then s.handedDom d else s.dom d := by
  induction ds with
  | nil => exact fun s => ⟨s.withOwns_nil.symm, fun d => (if_neg List.not_mem_nil).symm⟩
  | cons d ds ih =>
    obtain ⟨hhead, htail⟩ := List.nodup_cons.1 hds
    intro s
    set u := s.handAnchorWrite d with hu
    have handed : HandedFrom s u := s.handAnchorWrite_handed d
    have hdom : ∀ o, u.dom o = if o = d then s.handedDom d else s.dom o := fun o => by
      rw [hu, State.handDomain_eq]
      exact s.setDom_dom d o _
    have other : ∀ o ∈ ds, u.dom o = s.dom o := fun o ho => by
      rw [hdom, if_neg fun h : o = d => hhead (h ▸ ho)]
    obtain ⟨hfields, hdoms⟩ := ih htail u
    have hrun : s.handDomains (d :: ds) = u.handDomains ds := rfl
    have hwrites : ds.filterMap u.anchorOf = ds.filterMap s.anchorOf :=
      List.filterMap_congr fun o ho => handed.anchorOf (other o ho)
    have hsplit : (d :: ds).filterMap s.anchorOf = (s.anchorOf d).toList ++ ds.filterMap s.anchorOf := by
      rw [List.filterMap_cons]
      cases s.anchorOf d <;> rfl
    rw [hrun]
    refine ⟨?_, fun o => ?_⟩
    · rw [hwrites] at hfields
      rw [hsplit, show ([] : List OwnAccess) = [] ++ [] from rfl, ← State.withOwns_withOwns]
      refine hfields.trans ?_
      rw [hu, State.handDomain_eq]
      rfl
    · rw [hdoms]
      by_cases ho : o ∈ ds
      · rw [if_pos ho, if_pos (List.mem_cons_of_mem _ ho), handed.handedDom (other o ho)]
      · rw [if_neg ho, hdom]
        by_cases hod : o = d
        · rw [if_pos hod, if_pos (by rw [hod]; exact List.mem_cons_self), hod]
        · rw [if_neg hod, if_neg fun h => (List.mem_cons.1 h).elim hod ho]

/-- What the three hand-overs of the replay engine make of a walk, and the accesses that they add (R121, R123, R131). -/
structure Walk.HandedTo (s : State) (w v : Walk) (anchorReads recordReads replayWrites : List OwnAccess) : Prop where
  rest : v = { w with phase := v.phase, buffer := v.buffer, writeOut := v.writeOut, readOut := v.readOut, cursor := v.cursor }
  starts : s.AnchorReadStarts w → v.phase = .anchorRead .slot0 ∧
    anchorReads = [anchorRead w.domain (s.dom w.domain).config false (s.deadlineIn s.time.memTimeout)]
  startsNot : ¬s.AnchorReadStarts w → v.phase = w.phase ∧ anchorReads = []
  goes : ∀ b, w.buffer = some b → s.ReplayWriteGoes w b →
    replayWrites = [replayWrite w.domain b] ∧ v.buffer = none ∧ v.writeOut = some b.position
  goesNot : ∀ b, w.buffer = some b → ¬s.ReplayWriteGoes w b →
    replayWrites = [] ∧ v.buffer = w.buffer ∧ v.writeOut = w.writeOut
  empty : w.buffer = none → replayWrites = [] ∧ v.buffer = none ∧ v.writeOut = w.writeOut
  reads : ∀ k, v.phase = .walk → w.readOut = none → v.buffer = none → w.cursor = some k →
    recordReads = [recordRead w.domain (s.dom w.domain).config k (s.deadlineIn s.time.memTimeout)] ∧
      v.readOut = some k ∧ v.cursor = lowerCursor k
  readsNot : v.phase ≠ .walk ∨ w.readOut ≠ none ∨ v.buffer ≠ none ∨ w.cursor = none →
    recordReads = [] ∧ v.readOut = w.readOut ∧ v.cursor = w.cursor

section
variable {s : State} {w : Walk}

theorem State.setWalk_walk_eq (hw : s.replay.walk = some w) : s.setWalk (some w) = s := by
  rw [State.setWalk, ← hw]

theorem State.handAnchorRead_cases (hw : s.replay.walk = some w) : ∃ reads phase,
    s.handAnchorRead = (s.setWalk (some { w with phase := phase })).withOwns reads [] ∧
      (s.AnchorReadStarts w → phase = .anchorRead .slot0 ∧
        reads = [anchorRead w.domain (s.dom w.domain).config false (s.deadlineIn s.time.memTimeout)]) ∧
      (¬s.AnchorReadStarts w → phase = w.phase ∧ reads = []) := by
  by_cases h : s.AnchorReadStarts w
  · refine ⟨_, _, ?_, fun _ => ⟨rfl, rfl⟩, fun hno => absurd h hno⟩
    rw [State.handAnchorRead_goes hw h]
    exact State.withOwn_read _ rfl
  · refine ⟨[], w.phase, ?_, fun hc => absurd hc h, fun _ => ⟨rfl, rfl⟩⟩
    have waits : s.handAnchorRead = s := State.handAnchorRead_waits fun w' hw' => by
      obtain rfl : w = w' := Option.some.inj (hw.symm.trans hw')
      exact h
    rw [waits]
    exact ((State.withOwns_nil _).trans (State.setWalk_walk_eq hw)).symm

theorem State.handReplayWrite_cases (hw : s.replay.walk = some w) : ∃ writes buffer out,
    s.handReplayWrite = (s.setWalk (some { w with buffer := buffer, writeOut := out })).withOwns [] writes ∧
      (∀ b, w.buffer = some b → s.ReplayWriteGoes w b →
        writes = [replayWrite w.domain b] ∧ buffer = none ∧ out = some b.position) ∧
      (∀ b, w.buffer = some b → ¬s.ReplayWriteGoes w b → writes = [] ∧ buffer = w.buffer ∧ out = w.writeOut) ∧
      (w.buffer = none → writes = [] ∧ buffer = none ∧ out = w.writeOut) := by
  have stays : s.handReplayWrite = s →
      s.handReplayWrite = (s.setWalk (some { w with buffer := w.buffer, writeOut := w.writeOut })).withOwns [] [] :=
    fun waits => waits.trans ((State.withOwns_nil _).trans (State.setWalk_walk_eq hw)).symm
  rcases hb : w.buffer with _ | b
  · have waits : s.handReplayWrite = s := State.handReplayWrite_waits fun w' b hw' hb' _ => by
      obtain rfl : w = w' := Option.some.inj (hw.symm.trans hw')
      rw [hb] at hb'
      cases hb'
    exact ⟨[], none, w.writeOut, hb ▸ stays waits, fun _ h => (nomatch h), fun _ h => (nomatch h), fun _ => ⟨rfl, rfl, rfl⟩⟩
  · by_cases h : s.ReplayWriteGoes w b
    · refine ⟨[replayWrite w.domain b], none, some b.position, ?_, fun b' hb' _ => ?_, fun b' hb' hno => ?_,
        fun h => nomatch h⟩
      · rw [State.handReplayWrite_goes hw hb h]
        exact State.withOwn_write _ rfl
      · cases hb'
        exact ⟨rfl, rfl, rfl⟩
      · cases hb'
        exact absurd h hno
    · have waits : s.handReplayWrite = s := State.handReplayWrite_waits fun w' b' hw' hb' => by
        obtain rfl : w = w' := Option.some.inj (hw.symm.trans hw')
        obtain rfl : b = b' := Option.some.inj (hb.symm.trans hb')
        exact h
      refine ⟨[], some b, w.writeOut, hb ▸ stays waits, fun b' hb' hc => ?_, fun _ _ _ => ⟨rfl, rfl, rfl⟩,
        fun h => nomatch h⟩
      cases hb'
      exact absurd hc h

theorem State.issueRecordRead_cases (hw : s.replay.walk = some w) : ∃ reads out cursor,
    s.issueRecordRead = (s.setWalk (some { w with readOut := out, cursor := cursor })).withOwns reads [] ∧
      (∀ k, w.Reads k → reads = [recordRead w.domain (s.dom w.domain).config k (s.deadlineIn s.time.memTimeout)] ∧
        out = some k ∧ cursor = lowerCursor k) ∧
      ((∀ k, ¬w.Reads k) → reads = [] ∧ out = w.readOut ∧ cursor = w.cursor) := by
  by_cases h : ∃ k, w.Reads k
  · obtain ⟨k, hk⟩ := h
    refine ⟨[recordRead w.domain (s.dom w.domain).config k (s.deadlineIn s.time.memTimeout)], some k, lowerCursor k, ?_,
      fun k' hk' => ?_, fun hno => absurd hk (hno k)⟩
    · rw [State.issueRecordRead_goes hw hk]
      exact State.withOwn_read _ rfl
    · obtain ⟨-, -, -, hc⟩ := hk
      obtain ⟨-, -, -, hc'⟩ := hk'
      obtain rfl : k = k' := Option.some.inj (hc.symm.trans hc')
      exact ⟨rfl, rfl, rfl⟩
  · have waits : s.issueRecordRead = s := State.issueRecordRead_waits fun w' k hw' hk => by
      obtain rfl : w = w' := Option.some.inj (hw.symm.trans hw')
      exact h ⟨k, hk⟩
    refine ⟨[], w.readOut, w.cursor, ?_, fun k hk => absurd ⟨k, hk⟩ h, fun _ => ⟨rfl, rfl, rfl⟩⟩
    exact waits.trans ((State.withOwns_nil _).trans (State.setWalk_walk_eq hw)).symm

end

/-- The replay engine's hand-overs, after those of the slots and the domains (R5). -/
def State.handWalk (s : State) : State := s.handAnchorRead.handReplayWrite.issueRecordRead

theorem HandedFrom.anchorReadStarts {s t : State} (h : HandedFrom s t) (w : Walk) :
    t.AnchorReadStarts w ↔ s.AnchorReadStarts w := by
  rw [State.AnchorReadStarts, State.AnchorReadStarts, h.anchorIdHeld, h.areaWriteOut]

theorem HandedFrom.replayWriteGoes {s t : State} (h : HandedFrom s t) (w : Walk) (b : Buffered) :
    t.ReplayWriteGoes w b ↔ s.ReplayWriteGoes w b := by
  rw [State.ReplayWriteGoes, State.ReplayWriteGoes, h.lineWriteOut, h.replayIdHeld]

theorem State.handWalk_none {u : State} (hw : u.replay.walk = none) : u.handWalk = u := by
  have none_some : ∀ w, ¬u.replay.walk = some w := fun w h => by
    rw [hw] at h
    cases h
  rw [State.handWalk, State.handAnchorRead_waits fun w h => absurd h (none_some w),
    State.handReplayWrite_waits fun w _ h => absurd h (none_some w),
    State.issueRecordRead_waits fun w _ h => absurd h (none_some w)]

/-- The hand-overs of a walk, judged on a state whose other hand-overs have been made (R121, R123, R131). -/
theorem State.handWalk_some {s u : State} (h : HandedFrom s u) {w : Walk} (hw : u.replay.walk = some w) :
    ∃ v anchorReads recordReads replayWrites,
      u.handWalk = (u.setWalk (some v)).withOwns (anchorReads ++ recordReads) replayWrites ∧
        w.HandedTo s v anchorReads recordReads replayWrites := by
  obtain ⟨anchorReads, phase, h1, starts, startsNot⟩ := State.handAnchorRead_cases hw
  have handed1 : HandedFrom s u.handAnchorRead := h.trans u.handAnchorRead_handed
  have hw1 : u.handAnchorRead.replay.walk = some { w with phase := phase } := by rw [h1]; rfl
  obtain ⟨replayWrites, buffer, out, h2, goes, goesNot, empty⟩ := State.handReplayWrite_cases hw1
  have handed2 : HandedFrom s u.handAnchorRead.handReplayWrite := handed1.trans (State.handReplayWrite_handed _)
  have hw2 : u.handAnchorRead.handReplayWrite.replay.walk =
      some { w with phase := phase, buffer := buffer, writeOut := out } := by rw [h2]; rfl
  obtain ⟨recordReads, readOut, cursor, h3, reads, readsNot⟩ := State.issueRecordRead_cases hw2
  rw [h.anchorReadStarts] at starts startsNot
  rw [h.config, h.deadline] at starts
  simp only [handed1.replayWriteGoes] at goes goesNot
  simp only [handed2.config, handed2.deadline] at reads
  refine ⟨{ w with phase := phase, buffer := buffer, writeOut := out, readOut := readOut, cursor := cursor }, anchorReads,
    recordReads, replayWrites, ?_,
    { rest := rfl, starts := starts, startsNot := startsNot, goes := goes, goesNot := goesNot, empty := empty,
      reads := fun k hp hr hb hc => reads k ⟨hp, hr, hb, hc⟩, readsNot := fun hno => readsNot fun k hk => ?_ }⟩
  · rw [State.handWalk, h3, h2, h1]
    simp [State.withOwns, State.setWalk]
  · obtain ⟨hp, hr, hb, hc⟩ := hk
    rcases hno with hno | hno | hno | hno
    · exact hno hp
    · exact hno hr
    · exact hno hb
    · exact nomatch hno.symm.trans hc

/-- A hand-over neither begins nor ends the record walk (R131). -/
theorem Walk.HandedTo.phase_walk_iff {s : State} {w v : Walk} {ar rr rw : List OwnAccess} (h : w.HandedTo s v ar rr rw) :
    v.phase = .walk ↔ w.phase = .walk := by
  by_cases hstarts : s.AnchorReadStarts w
  · rw [(h.starts hstarts).1, hstarts.1]
    decide
  · rw [(h.startsNot hstarts).1]

/-- What a walk still holds may not go (R5). -/
theorem Walk.HandedTo.settled {s t : State} {w v : Walk} {ar rr rw : List OwnAccess} (h : w.HandedTo s v ar rr rw)
    (hst : HandedFrom s t) (hv : t.replay.walk = some v) :
    t.handAnchorRead = t ∧ t.handReplayWrite = t ∧ t.issueRecordRead = t := by
  have only : ∀ v', t.replay.walk = some v' → v' = v := fun v' h' => Option.some.inj (h'.symm.trans hv)
  have hdomain : v.domain = w.domain := by rw [h.rest]
  refine ⟨State.handAnchorRead_waits fun v' hv' hstarts => ?_, State.handReplayWrite_waits fun v' b hv' hb hgoes => ?_,
    State.issueRecordRead_waits fun v' k hv' ⟨hphase, hread, hbuffer, hcursor⟩ => ?_⟩
  · rw [only v' hv', hst.anchorReadStarts] at hstarts
    obtain ⟨hphase, hid, harea⟩ := hstarts
    rw [hdomain] at hid harea
    by_cases hw : s.AnchorReadStarts w
    · rw [(h.starts hw).1] at hphase
      cases hphase
    · exact hw ⟨(h.startsNot hw).1 ▸ hphase, hid, harea⟩
  · rw [only v' hv', hst.replayWriteGoes] at hgoes
    rw [only v' hv'] at hb
    rcases hwb : w.buffer with _ | b'
    · rw [(h.empty hwb).2.1] at hb
      cases hb
    · by_cases hg : s.ReplayWriteGoes w b'
      · rw [(h.goes b' hwb hg).2.1] at hb
        cases hb
      · obtain ⟨_, hbuffer, hout⟩ := h.goesNot b' hwb hg
        rw [hbuffer, hwb] at hb
        cases hb
        exact hg ⟨hgoes.1, hout ▸ hgoes.2.1, hgoes.2.2⟩
  · rw [only v' hv'] at hphase hread hbuffer hcursor
    by_cases hread' : w.readOut = none
    · rcases hc : w.cursor with _ | k'
      · rw [(h.readsNot (.inr (.inr (.inr hc)))).2.2, hc] at hcursor
        cases hcursor
      · rw [(h.reads k' hphase hread' hbuffer hc).2.1] at hread
        cases hread
    · rw [(h.readsNot (.inr (.inl hread'))).2.1] at hread
      exact hread' hread

theorem flatMap_if_singleton {α β : Type} (l : List α) (p : α → Bool) (f : α → β) :
    (l.flatMap fun a => if p a then [f a] else []) = (l.filter p).map f := by
  induction l with
  | nil => rfl
  | cons a l ih =>
    rw [List.flatMap_cons, ih, List.filter_cons]
    split <;> rfl

/-- A happening's hand-overs up to those of the replay engine (R5). -/
theorem State.handSlotsDomains_eq (s : State) :
    (s.handSlots allSlots).handDomains allDoms = State.withOwns
        { s with slots := ((s.handSlots allSlots).handDomains allDoms).slots
                 domains := ((s.handSlots allSlots).handDomains allDoms).domains }
        ((allSlots.filter s.captureReadReady).map fun k => captureRead k (s.slot k))
        (((allSlots.filter s.recordWriteReady).map fun k => recordWrite k (s.slot k) (s.dom (s.slot k).domain).config) ++
          allDoms.filterMap s.anchorOf) ∧
      (∀ k, ((s.handSlots allSlots).handDomains allDoms).slot k = s.handedSlot k) ∧
      ∀ d, ((s.handSlots allSlots).handDomains allDoms).dom d = s.handedDom d := by
  obtain ⟨hfields, hslots⟩ := State.handSlots_eq allSlots allSlots_nodup s
  generalize hu : s.handSlots allSlots = u at hfields hslots ⊢
  have hdom : ∀ d, u.dom d = s.dom d := fun d => by
    rw [hfields]
    rfl
  have handed : HandedFrom s u := by
    rw [← hu]
    exact .foldl _ (fun t k => (t.handCaptureRead_handed k).trans (State.handRecordWrite_handed _ k)) _ s
  obtain ⟨hfields', hdoms⟩ := State.handDomains_eq allDoms (by decide) u
  have hanchors : u.anchorOf = s.anchorOf := funext fun d => handed.anchorOf (hdom d)
  have hreads : allSlots.flatMap s.readOf = (allSlots.filter s.captureReadReady).map fun k => captureRead k (s.slot k) :=
    flatMap_if_singleton allSlots s.captureReadReady fun k => captureRead k (s.slot k)
  have hwrites : allSlots.flatMap s.writeOf = (allSlots.filter s.recordWriteReady).map fun k =>
      recordWrite k (s.slot k) (s.dom (s.slot k).domain).config :=
    flatMap_if_singleton allSlots s.recordWriteReady fun k => recordWrite k (s.slot k) (s.dom (s.slot k).domain).config
  rw [hreads, hwrites] at hfields
  rw [hanchors] at hfields'
  refine ⟨?_, fun k => ?_, fun d => ?_⟩
  · refine hfields'.trans ?_
    rw [hfields', hfields]
    simp [State.withOwns]
  · have hs : (u.handDomains allDoms).slots = u.slots := by
      rw [hfields', State.withOwns_slots]
    rw [State.slot, hs]
    exact (hslots k).trans (if_pos (mem_allSlots k))
  · rw [hdoms, if_pos (mem_allDoms d), handed.handedDom (hdom d)]

theorem State.releaseHeld_eq (s : State) :
    s.releaseHeld = ((s.handSlots allSlots).handDomains allDoms).handWalk := by
  simp only [State.releaseHeld, State.handSlots, State.handDomains, State.handWalk]

/-- What remains of a slot's two accesses after its hand-overs may not go (R53, R57). -/
theorem HandedFrom.slot_settled {s t : State} (h : HandedFrom s t) {k : SlotId} (hk : t.slot k = s.handedSlot k) :
    t.captureReadReady k = false ∧ t.recordWriteReady k = false := by
  refine ⟨Bool.eq_false_iff.2 fun hc => ?_, Bool.eq_false_iff.2 fun hc => ?_⟩
  · obtain ⟨hst, hissued, hline, hlate⟩ := (t.captureReadReady_iff k).1 hc
    rw [hk] at hst hissued hline hlate
    rw [h.lineWriteOut] at hline
    rw [h.lateReplayTo] at hlate
    obtain ⟨hissued, hno⟩ := Bool.or_eq_false_iff.1 hissued
    rw [(s.captureReadReady_iff k).2 ⟨hst, hissued, hline, hlate⟩] at hno
    cases hno
  · obtain ⟨hst, hhanded, hlate⟩ := (t.recordWriteReady_iff k).1 hc
    rw [hk] at hst hhanded hlate
    rw [h.lateRecordTo, h.config] at hlate
    obtain ⟨hhanded, hno⟩ := Bool.or_eq_false_iff.1 hhanded
    rw [(s.recordWriteReady_iff k).2 ⟨hst, hhanded, hlate⟩] at hno
    cases hno

/-- A domain's anchor write that is still held may not go (R110). -/
theorem HandedFrom.anchor_settled {s t : State} (h : HandedFrom s t) {d : DomId} (hd : t.dom d = s.handedDom d) {e : Epoch}
    {r : OpResult} (hheld : (t.dom d).anchor = .held e r) : t.anchorClear d = false := by
  rw [h.anchorClear]
  rcases s.anchor_cases d with ⟨e', r', hheld', hclear⟩ | hwait
  · rw [hd, State.handedDom_goes hheld' hclear] at hheld
    cases hheld
  · rw [hd, State.handedDom_waits hwait] at hheld
    exact Bool.eq_false_iff.2 (hwait e r hheld)

/-- Settles O23: the slots, then the domains, then the walk, none of which changes what the others are judged by. -/
theorem releaseHandsOverWhatIsClear : Obligations.ReleaseHandsOverWhatIsClear := by
  unfold Obligations.ReleaseHandsOverWhatIsClear
  intro s t deadline heldAnchor captureReads recordWrites anchorWrites
  have handed : HandedFrom s t := s.releaseHeld_handed
  obtain ⟨hfields, hslots, hdoms⟩ := s.handSlotsDomains_eq
  generalize hu : (s.handSlots allSlots).handDomains allDoms = u at hfields hslots hdoms
  have ht : t = u.handWalk := by
    rw [← hu]
    exact s.releaseHeld_eq
  have handedU : HandedFrom s u := by
    have slots : HandedFrom s (s.handSlots allSlots) :=
      .foldl _ (fun t k => (t.handCaptureRead_handed k).trans (State.handRecordWrite_handed _ k)) _ s
    rw [← hu]
    exact slots.trans (.foldl _ (fun t d => t.handAnchorWrite_handed d) _ _)
  have hwalk : u.replay.walk = s.replay.walk := by
    rw [hfields]
    rfl
  have hanchor : allDoms.filterMap s.anchorOf = anchorWrites := by
    refine List.filterMap_congr fun d _ => ?_
    rcases s.anchor_cases d with ⟨e, r, hheld, hclear⟩ | hwait
    · rw [State.anchorOf_goes hheld hclear]
      show _ = heldAnchor d
      simp only [heldAnchor, hheld, hclear, if_true]
      rfl
    · rw [State.anchorOf_waits hwait]
      show _ = heldAnchor d
      simp only [heldAnchor]
      split
      · next e r hheld => rw [if_neg (hwait e r hheld)]
      · rfl
  rw [hanchor] at hfields
  have walked : (s.replay.walk = none → t = u) ∧ ∀ w, s.replay.walk = some w →
      ∃ v anchorReads recordReads replayWrites,
        t = (u.setWalk (some v)).withOwns (anchorReads ++ recordReads) replayWrites ∧
          w.HandedTo s v anchorReads recordReads replayWrites :=
    ⟨fun hw => ht.trans (State.handWalk_none (hwalk.trans hw)), fun w hw => by
      rw [ht]
      exact State.handWalk_some handedU (hwalk.trans hw)⟩
  have hparts : t.slots = u.slots ∧ t.domains = u.domains := by
    rcases hw : s.replay.walk with _ | w
    · rw [walked.1 hw]
      exact ⟨rfl, rfl⟩
    · obtain ⟨v, ar, rr, rw', htw, _⟩ := walked.2 w hw
      rw [htw]
      exact ⟨rfl, rfl⟩
  have hslot : ∀ k, t.slot k = s.handedSlot k := fun k => by
    rw [← hslots k, State.slot, State.slot, hparts.1]
  have hdom : ∀ d, t.dom d = s.handedDom d := fun d => by
    rw [← hdoms d, State.dom, State.dom, hparts.2]
  refine ⟨?_, hslot, fun d => ⟨fun e r hheld hclear => ?_, fun hno => ?_⟩, s.captureReadReady_iff, s.recordWriteReady_iff,
    s.anchorClear_iff, fun k => handed.slot_settled (hslot k), fun d e r hheld => handed.anchor_settled (hdom d) hheld, ?_⟩
  · rcases hw : s.replay.walk with _ | w
    · refine ⟨[], [], [], ?_, fun _ => ⟨?_, rfl, rfl, rfl⟩, fun w h => nomatch h⟩
      · rw [hparts.1, hparts.2, walked.1 hw, hwalk]
        conv_lhs => rw [hfields]
        simp [State.withOwns, captureReads, recordWrites]
      · rw [walked.1 hw, hwalk, hw]
    · obtain ⟨v, ar, rr, rws, htw, hv⟩ := walked.2 w hw
      refine ⟨ar, rr, rws, ?_, fun h => (nomatch h), ?_⟩
      · have hv' : t.replay.walk = some v := by
          rw [htw]
          rfl
        rw [hparts.1, hparts.2, hv']
        conv_lhs => rw [htw, hfields]
        simp [State.withOwns, State.setWalk, captureReads, recordWrites]
      · rintro w' hw'
        obtain rfl : w = w' := Option.some.inj hw'
        refine ⟨v, by rw [htw]; rfl, hv.rest, ?_⟩
        exact ⟨fun h => (hv.starts h).symm, fun h => (hv.startsNot h).symm,
          fun b hb => ⟨hv.goes b hb, hv.goesNot b hb⟩, hv.empty,
          fun k hphase => hv.reads k (hv.phase_walk_iff.2 hphase),
          fun hno => hv.readsNot (hno.imp_left fun hphase h => hphase (hv.phase_walk_iff.1 h))⟩
  · rw [hdom, State.handedDom_goes hheld hclear]
  · rw [hdom]
    refine State.handedDom_waits fun e r hheld hclear => ?_
    rcases hno with hno | hno
    · exact hno e r hheld
    · exact absurd (hno.symm.trans hclear) (by decide)
  · rcases hw : s.replay.walk with _ | w
    · have htu := walked.1 hw
      have none_some : ∀ w, ¬t.replay.walk = some w := fun w h => by
        rw [htu, hwalk, hw] at h
        cases h
      exact ⟨State.handAnchorRead_waits fun w h => absurd h (none_some w),
        State.handReplayWrite_waits fun w _ h => absurd h (none_some w),
        State.issueRecordRead_waits fun w _ h => absurd h (none_some w)⟩
    · obtain ⟨v, ar, rr, rws, htw, hv⟩ := walked.2 w hw
      exact hv.settled handed (by rw [htw]; rfl)

end Sys2Proof.Machine
end

section
/-! PROOFS. Journal records and anchor lines (chapter 11): each field reads back as it was written, and the check word of a
sealed line is the one that its reader computes. -/

namespace Sys2Proof.Machine

-- One declaration at a time: under the check's memory limit there is no room for many threads' stacks.
set_option Elab.async false

/-! ### Bytes and fields -/

@[simp] theorem leBytes_length (n v : Nat) : (leBytes n v).length = n := by
  simp [leBytes]

theorem leBytes_succ (n v : Nat) : leBytes (n + 1) v = BitVec.ofNat 8 v :: leBytes n (v / 256) := by
  simp only [leBytes, List.range_succ_eq_map, List.map_cons, List.map_map, Nat.pow_zero, Nat.div_one]
  refine congrArg (_ :: ·) (List.map_congr_left fun i _ => ?_)
  simp only [Function.comp, Nat.div_div_eq_div_mul, Nat.pow_succ, Nat.mul_comm]

/-- The number that the bytes of a number spell (section 11.1). -/
theorem ofLeBytes_leBytes (n : Nat) : ∀ v, ofLeBytes (leBytes n v) = v % 256 ^ n := by
  induction n with
  | zero => exact fun v => (Nat.mod_one v).symm
  | succ n ih =>
    intro v
    have split : ofLeBytes (leBytes (n + 1) v) = (BitVec.ofNat 8 v).toNat + 256 * ofLeBytes (leBytes n (v / 256)) := by
      rw [leBytes_succ]
      rfl
    rw [split, ih, BitVec.toNat_ofNat, show 256 ^ (n + 1) = 256 * 256 ^ n from Nat.pow_succ', Nat.mod_mul]

/-- A field at the start. -/
theorem fieldAt_head (n v : Nat) (after : List Byte) : fieldAt (leBytes n v ++ after) 0 n = v % 256 ^ n := by
  have bytes : bytesAt (leBytes n v ++ after) 0 n = leBytes n v := List.take_left' (leBytes_length n v)
  rw [fieldAt, bytes, ofLeBytes_leBytes]

/-- A field behind other bytes. -/
theorem fieldAt_behind {before : List Byte} {m : Nat} (h : before.length = m) (after : List Byte) (offset n : Nat) :
    fieldAt (before ++ after) (m + offset) n = fieldAt after offset n := by
  rw [fieldAt, fieldAt, bytesAt, bytesAt, ← List.drop_drop, ← h, List.drop_left]

theorem fieldAt_skip {m offset : Nat} (h : m ≤ offset) (u : Nat) (after : List Byte) (n : Nat) :
    fieldAt (leBytes m u ++ after) offset n = fieldAt after (offset - m) n := by
  have hm := fieldAt_behind (leBytes_length m u) after (offset - m) n
  rwa [Nat.add_sub_cancel' h] at hm

theorem fieldAt_skip_zeros {m offset : Nat} (h : m ≤ offset) (after : List Byte) (n : Nat) :
    fieldAt (List.replicate m 0#8 ++ after) offset n = fieldAt after (offset - m) n := by
  have hm := fieldAt_behind (List.length_replicate (n := m) (a := 0#8)) after (offset - m) n
  rwa [Nat.add_sub_cancel' h] at hm

theorem fieldAt_before {before : List Byte} {offset n : Nat} (h : offset + n ≤ before.length) (after : List Byte) :
    fieldAt (before ++ after) offset n = fieldAt before offset n := by
  have bytes : bytesAt (before ++ after) offset n = bytesAt before offset n := by
    rw [bytesAt, List.drop_append_of_le_length (by omega), List.take_append_of_le_length (by rw [List.length_drop]; omega)]
    rfl
  rw [fieldAt, fieldAt, bytes]

/-- Fields before the check word are as they were (R175, R176). -/
theorem fieldAt_withCheckWord {bs : List Byte} (hlen : 60 ≤ bs.length) {offset n : Nat} (h : offset + n ≤ 60) (w : Nat) :
    fieldAt (withCheckWord bs w) offset n = fieldAt bs offset n := by
  have hfront : (bs.take 60).length = 60 := List.length_take_of_le hlen
  calc fieldAt (withCheckWord bs w) offset n
      = fieldAt (bs.take 60) offset n := by
        rw [withCheckWord, List.append_assoc, fieldAt_before (by rw [hfront]; exact h)]
    _ = fieldAt (bs.take 60 ++ bs.drop 60) offset n := (fieldAt_before (by rw [hfront]; exact h) _).symm
    _ = fieldAt bs offset n := by rw [List.take_append_drop]

theorem withCheckWord_length {bs : List Byte} (hlen : 64 ≤ bs.length) (w : Nat) :
    (withCheckWord bs w).length = bs.length := by
  simp only [withCheckWord, List.length_append, List.length_take, List.length_drop, leBytes_length]
  omega

theorem drop_withCheckWord {bs : List Byte} (hlen : 64 ≤ bs.length) (w : Nat) :
    (withCheckWord bs w).drop 64 = bs.drop 64 := by
  have hfront : (bs.take 60 ++ leBytes 4 w).length = 64 := by
    rw [List.length_append, List.length_take, leBytes_length]
    omega
  rw [withCheckWord, ← hfront, List.drop_left]

theorem withCheckWord_twice {bs : List Byte} (hlen : 64 ≤ bs.length) (w w' : Nat) :
    withCheckWord (withCheckWord bs w) w' = withCheckWord bs w' := by
  have htake : (withCheckWord bs w).take 60 = bs.take 60 := by
    rw [withCheckWord, List.append_assoc]
    exact List.take_left' (by rw [List.length_take]; omega)
  rw [withCheckWord, htake, drop_withCheckWord hlen]
  rfl

theorem checkWord_sealed {bs : List Byte} (hlen : 64 ≤ bs.length) : checkWord (sealed bs) = checkWord bs := by
  rw [checkWord, sealed, withCheckWord_twice hlen]
  rfl

/-- A sealed line's check word is correct (R175, R176). -/
theorem checkWordCorrect_sealed {bs : List Byte} (hlen : 64 ≤ bs.length) : checkWordCorrect (sealed bs) = true := by
  rw [checkWordCorrect, checkWord_sealed hlen, decide_eq_true_eq, sealed, withCheckWord, List.append_assoc,
    show (60 : Nat) = 60 + 0 from rfl, fieldAt_behind (by rw [List.length_take]; omega), fieldAt_head]
  exact Nat.mod_eq_of_lt (checkWord bs).isLt

/-! ### Journal records -/

/-- A record before its check word is set. -/
def recordBody (k : Slot) : List Byte :=
  leBytes 4 Config.recordMarker ++ leBytes 1 k.domain.val ++ leBytes 1 k.region.val ++ leBytes 2 k.position ++
    leBytes 4 k.epoch.toNat ++ leBytes 4 k.stamp.toNat ++ leBytes 5 (lineAddr k.line).toNat ++ List.replicate 39 0#8 ++
    leBytes 4 0 ++ k.buffer

theorem recordOf_eq (k : Slot) : recordOf k = sealed (recordBody k) := rfl

theorem recordBody_length {k : Slot} (h : k.buffer.length = 64) : (recordBody k).length = 128 := by
  simp [recordBody, h]

theorem fieldAt_recordOf {k : Slot} (h : k.buffer.length = 64) {offset n : Nat} (hn : offset + n ≤ 60) :
    fieldAt (recordOf k) offset n = fieldAt (recordBody k) offset n := by
  rw [recordOf_eq, sealed, fieldAt_withCheckWord (by rw [recordBody_length h]; decide) hn]

theorem lineAddr_toNat (l : Line) : (lineAddr l).toNat = l.toNat * 64 := by
  rw [lineAddr, BitVec.toNat_append, Nat.shiftLeft_eq]
  exact Nat.or_zero _

section
variable {k : Slot} (h : k.buffer.length = 64)
include h

theorem record_marker : fieldAt (recordOf k) 0 4 = Config.recordMarker := by
  simp only [fieldAt_recordOf h (offset := 0) (n := 4) (by decide), recordBody, List.append_assoc]
  rw [fieldAt_head]
  rfl

theorem record_domain : fieldAt (recordOf k) 4 1 = k.domain.val := by
  simp only [fieldAt_recordOf h (offset := 4) (n := 1) (by decide), recordBody, List.append_assoc, fieldAt_skip, fieldAt_head,
    Nat.reduceLeDiff, Nat.reduceSub]
  omega

theorem record_region : fieldAt (recordOf k) 5 1 = k.region.val := by
  simp only [fieldAt_recordOf h (offset := 5) (n := 1) (by decide), recordBody, List.append_assoc, fieldAt_skip, fieldAt_head,
    Nat.reduceLeDiff, Nat.reduceSub]
  omega

theorem record_position : fieldAt (recordOf k) 6 2 = k.position % 256 ^ 2 := by
  simp only [fieldAt_recordOf h (offset := 6) (n := 2) (by decide), recordBody, List.append_assoc, fieldAt_skip, fieldAt_head,
    Nat.reduceLeDiff, Nat.reduceSub]

theorem record_epoch : fieldAt (recordOf k) 8 4 = k.epoch.toNat := by
  simp only [fieldAt_recordOf h (offset := 8) (n := 4) (by decide), recordBody, List.append_assoc, fieldAt_skip, fieldAt_head,
    Nat.reduceLeDiff, Nat.reduceSub]
  exact Nat.mod_eq_of_lt k.epoch.isLt

theorem record_stamp : fieldAt (recordOf k) 12 4 = k.stamp.toNat := by
  simp only [fieldAt_recordOf h (offset := 12) (n := 4) (by decide), recordBody, List.append_assoc, fieldAt_skip, fieldAt_head,
    Nat.reduceLeDiff, Nat.reduceSub]
  exact Nat.mod_eq_of_lt k.stamp.isLt

theorem record_line : recordLine (recordOf k) = k.line := by
  have hfield : fieldAt (recordOf k) 16 5 = k.line.toNat * 64 := by
    simp only [fieldAt_recordOf h (offset := 16) (n := 5) (by decide), recordBody, List.append_assoc]
    rw [fieldAt_skip (by decide), fieldAt_skip (by decide), fieldAt_skip (by decide), fieldAt_skip (by decide),
      fieldAt_skip (by decide), fieldAt_skip (by decide), fieldAt_head, lineAddr_toNat]
    have hlt := k.line.isLt
    omega
  rw [recordLine, hfield, show Config.lineBytes = 64 from rfl, Nat.mul_div_cancel _ (by decide), BitVec.ofNat_toNat,
    BitVec.setWidth_eq]

theorem record_contents : recordContents (recordOf k) = k.buffer := by
  have hlen := recordBody_length h
  have hfront : (recordBody k).drop 64 = k.buffer := List.drop_left' (by simp)
  rw [recordContents, recordOf_eq, sealed, drop_withCheckWord (by omega), hfront]

theorem recordOf_length : (recordOf k).length = 128 := by
  have hlen := recordBody_length h
  rw [recordOf_eq, sealed, withCheckWord_length (by omega), hlen]

/-- A record is valid for the domain and the epoch that it was written for, and for no others (R122). -/
theorem record_valid_iff (d : DomId) (e : Epoch) : recordValid (recordOf k) d e = true ↔ d = k.domain ∧ e = k.epoch := by
  have hcheck : checkWordCorrect (recordOf k) = true :=
    checkWordCorrect_sealed (bs := recordBody k) (by rw [recordBody_length h]; decide)
  rw [recordValid, record_marker h, hcheck, record_domain h, record_epoch h]
  simp only [Bool.and_eq_true, decide_eq_true_eq, true_and]
  exact and_congr ⟨fun hd => Fin.ext hd.symm, fun hd => by rw [hd]⟩
    ⟨fun he => BitVec.eq_of_toNat_eq he.symm, fun he => by rw [he]⟩

end

/-! ### Anchor lines -/

/-- An anchor line before its check word is set. -/
def anchorBody (d : DomId) (e : Epoch) (capacity : Nat) : List Byte :=
  leBytes 4 Config.anchorMarker ++ leBytes 1 d.val ++ List.replicate 3 0#8 ++ leBytes 4 e.toNat ++ leBytes 4 capacity ++
    List.replicate 44 0#8 ++ leBytes 4 0

section
variable (d : DomId) (e : Epoch) (capacity : Nat)

theorem anchorLine_eq : anchorLine d e capacity = sealed (anchorBody d e capacity) := rfl

theorem anchorBody_length : (anchorBody d e capacity).length = 64 := by
  simp [anchorBody]

theorem fieldAt_anchorLine {offset n : Nat} (hn : offset + n ≤ 60) :
    fieldAt (anchorLine d e capacity) offset n = fieldAt (anchorBody d e capacity) offset n := by
  rw [anchorLine_eq, sealed, fieldAt_withCheckWord (by rw [anchorBody_length]; decide) hn]

theorem anchorLine_length : (anchorLine d e capacity).length = 64 := by
  rw [anchorLine_eq, sealed, withCheckWord_length (by rw [anchorBody_length]), anchorBody_length]

theorem anchor_marker : fieldAt (anchorLine d e capacity) 0 4 = Config.anchorMarker := by
  simp only [fieldAt_anchorLine d e capacity (offset := 0) (n := 4) (by decide), anchorBody, List.append_assoc]
  rw [fieldAt_head]
  rfl

theorem anchor_domain : fieldAt (anchorLine d e capacity) 4 1 = d.val := by
  simp only [fieldAt_anchorLine d e capacity (offset := 4) (n := 1) (by decide), anchorBody, List.append_assoc, fieldAt_skip,
    fieldAt_head, Nat.reduceLeDiff, Nat.reduceSub]
  omega

theorem anchor_epoch : anchorEpoch (anchorLine d e capacity) = e := by
  have hfield : fieldAt (anchorLine d e capacity) 8 4 = e.toNat := by
    simp only [fieldAt_anchorLine d e capacity (offset := 8) (n := 4) (by decide), anchorBody, List.append_assoc, fieldAt_skip,
      fieldAt_skip_zeros, fieldAt_head, Nat.reduceLeDiff, Nat.reduceSub]
    exact Nat.mod_eq_of_lt e.isLt
  rw [anchorEpoch, hfield, BitVec.ofNat_toNat, BitVec.setWidth_eq]

theorem anchor_capacity : anchorCapacity (anchorLine d e capacity) = capacity % 256 ^ 4 := by
  rw [anchorCapacity]
  simp only [fieldAt_anchorLine d e capacity (offset := 12) (n := 4) (by decide), anchorBody, List.append_assoc, fieldAt_skip,
    fieldAt_skip_zeros, fieldAt_head, Nat.reduceLeDiff, Nat.reduceSub]

theorem anchor_valid_iff (o : DomId) : anchorValid (anchorLine d e capacity) o = true ↔ o = d := by
  have hcheck : checkWordCorrect (anchorLine d e capacity) = true :=
    checkWordCorrect_sealed (bs := anchorBody d e capacity) (by rw [anchorBody_length])
  rw [anchorValid, anchor_marker, hcheck, anchor_domain]
  simp only [Bool.and_eq_true, decide_eq_true_eq, true_and, and_true]
  exact ⟨fun ho => Fin.ext ho.symm, fun ho => by rw [ho]⟩

end

/-- FORMAT's invalidating write carries no marker (R176). -/
theorem invalidLine_not_valid (d : DomId) : anchorValid (List.replicate 64 0#8) d = false := by
  have hmarker : decide (fieldAt (List.replicate 64 0#8) 0 4 = Config.anchorMarker) = false := by decide
  rw [anchorValid, hmarker, Bool.false_and, Bool.false_and]

/-- Settles O33: field by field. -/
theorem recordReadsBackValid : Obligations.RecordReadsBackValid := by
  unfold Obligations.RecordReadsBackValid
  refine ⟨fun k h hp => ⟨recordOf_length h, record_line h, record_contents h, ?_, record_region h, record_stamp h,
    record_valid_iff h⟩, fun d e capacity hc => ⟨anchorLine_length d e capacity, anchor_epoch d e capacity, ?_,
    anchor_valid_iff d e capacity⟩, invalidLine_not_valid⟩
  · exact (record_position h).trans (Nat.mod_eq_of_lt hp)
  · exact (anchor_capacity d e capacity).trans (Nat.mod_eq_of_lt hc)

end Sys2Proof.Machine
end

section
/-! PROOFS. What the re-evaluations of a happening leave as it is (chapter 5): the requests and the domains of the entries that
stay held, the marks of requests that are not held, the replay engine and the clock, pending sweeps and set flags. -/

namespace Sys2Proof.Machine

-- One declaration at a time: under the check's memory limit there is no room for many threads' stacks.
set_option Elab.async false

/-! ### Sweeps that stay pending -/

/-- A pending sweep of a domain stays pending: only visits end one (R77, R80). -/
def PendingKept (d : DomId) (s t : State) : Prop := s.sweepPending d = true → t.sweepPending d = true

theorem PendingKept.of_sweep {d : DomId} {s t : State} (h : t.sweep = s.sweep) : PendingKept d s t := fun hs => by
  rw [State.sweepPending, h]
  exact hs

theorem State.requestSweep_pendingKept (s : State) (d o : DomId) : PendingKept d s (s.requestSweep o) := fun h => by
  rw [State.requestSweep_eq]
  rw [State.sweepPending] at h ⊢
  unfold requested
  rcases hr : s.sweep.running with _ | r
  · rw [hr] at h
    simp only [Bool.or_false, decide_eq_true_eq] at h
    dsimp only
    simp [h]
  · rw [hr] at h
    dsimp only at h ⊢
    split
    · exact h
    · split
      · rw [hr]
        exact h
      · dsimp only
        rw [Bool.or_eq_true, decide_eq_true_eq] at h ⊢
        exact h.imp_left (List.mem_append_left _)

theorem pendingKept_closed (d : DomId) : Closed (PendingKept d) where
  refl _ := id
  trans h h' := h' ∘ h
  raise _ _ := .of_sweep rfl
  enqueueFault s r := .of_sweep (by obtain ⟨_, _, _, h⟩ := s.enqueueFault_eq r; rw [h])
  countGlobal _ _ := .of_sweep rfl
  domain _ _ _ _ := .of_sweep rfl
  requestSweep s o := s.requestSweep_pendingKept d o
  setMark _ _ _ := .of_sweep rfl
  dropEntry _ _ := .of_sweep rfl
  rewrite _ _ _ := .of_sweep rfl
  forward s dir _ := .of_sweep (s.setSide_sweep dir _)
  handOver s a := .of_sweep (s.handOver_sweep a)
  freeId s dir id := .of_sweep (s.freeId_sweep dir id)
  timeOutOwn s dir p := .of_sweep (s.timeOutOwn_sweep dir p)
  handed _ _ _ _ := .of_sweep rfl
  filled _ _ _ _ _ := .of_sweep rfl
  freeSlot _ _ _ := .of_sweep rfl
  allocate s e region lines _ := .of_sweep (by obtain ⟨_, _, _, _, h⟩ := s.allocateSlots_eq e region lines; rw [h])
  insert s e l p := .of_sweep (by obtain ⟨_, _, _, h⟩ := s.filterInsert_eq e l p; rw [h])
  walk _ _ := .of_sweep rfl
  waiting _ _ := .of_sweep rfl

/-! ### Held entries, marks and the replay engine -/

/-- Every accepted request of an acceptance position carries a mark (R19). -/
def State.MarkedAs (s : State) (a : Nat) (m : Mark) : Prop := ∀ u ∈ s.host.unanswered, u.arrival = a → u.mark = m

theorem State.marked_markedAs (s : State) (a : Nat) (m : Mark) : (s.marked a m).MarkedAs a m := by
  intro u hu ha
  obtain ⟨v, -, rfl⟩ := List.mem_map.1 hu
  by_cases hv : v.arrival = a
  · rw [if_pos hv]
  · rw [if_neg hv] at ha
    exact absurd ha hv

theorem State.MarkedAs.marked {s : State} {a b : Nat} {m m' : Mark} (h : s.MarkedAs a m) (hb : b ≠ a) :
    (s.marked b m').MarkedAs a m := by
  intro u hu ha
  obtain ⟨v, hv, rfl⟩ := List.mem_map.1 hu
  by_cases hvb : v.arrival = b
  · rw [if_pos hvb] at ha
    exact absurd (hvb.symm.trans ha) hb
  · rw [if_neg hvb] at ha ⊢
    exact h v hv ha

/-- What re-evaluations leave as it is (R90): entries that stay held keep request, domain and arrival sequence; marks of
requests that are not held stay; and so do the replay engine, the time, the region table and the frame engine. -/
structure Reevaluates (s t : State) : Prop where
  hold : ∀ x ∈ t.hold, ∃ y ∈ s.hold, y.arrival = x.arrival ∧ y.req = x.req ∧ y.domain = x.domain
  marks : ∀ a m, (∀ y ∈ s.hold, y.arrival ≠ a) → s.MarkedAs a m → t.MarkedAs a m
  replay : t.replay = s.replay
  time : t.time = s.time

theorem Reevaluates.refl (s : State) : Reevaluates s s :=
  ⟨fun x hx => ⟨x, hx, rfl, rfl, rfl⟩, fun _ _ _ h => h, rfl, rfl⟩

theorem Reevaluates.trans {s t u : State} (h : Reevaluates s t) (h' : Reevaluates t u) : Reevaluates s u where
  hold x hx := by
    obtain ⟨y, hy, ha, hr, hd⟩ := h'.hold x hx
    obtain ⟨z, hz, ha', hr', hd'⟩ := h.hold y hy
    exact ⟨z, hz, ha'.trans ha, hr'.trans hr, hd'.trans hd⟩
  marks a m hnone hs := by
    refine h'.marks a m (fun y hy => ?_) (h.marks a m hnone hs)
    obtain ⟨z, hz, ha, _⟩ := h.hold y hy
    exact ha ▸ hnone z hz
  replay := h'.replay.trans h.replay
  time := h'.time.trans h.time

/-- A re-evaluation that marks at most its own request, and keeps or drops its entry. -/
theorem Reevaluates.of_step {s t : State} {e : Entry} (he : e ∈ s.hold)
    (hhold : ∀ x ∈ t.hold, ∃ y ∈ s.hold, y.arrival = x.arrival ∧ y.req = x.req ∧ y.domain = x.domain)
    (hhost : t.host = s.host ∨ ∃ m, t.host = (s.marked e.arrival m).host) (hreplay : t.replay = s.replay)
    (htime : t.time = s.time) : Reevaluates s t where
  hold := hhold
  marks a m hnone hs := by
    rcases hhost with h | ⟨m', h⟩
    · rw [State.MarkedAs, h]
      exact hs
    · rw [State.MarkedAs, h]
      exact hs.marked (hnone e he)
  replay := hreplay
  time := htime

theorem State.without_from (s : State) (e : Entry) :
    ∀ x ∈ (s.without e).hold, ∃ y ∈ s.hold, y.arrival = x.arrival ∧ y.req = x.req ∧ y.domain = x.domain :=
  fun x hx => ⟨x, (List.mem_filter.1 hx).1, rfl, rfl, rfl⟩

theorem State.replaced_from {hold : List Entry} {e f : Entry} (he : e ∈ hold) (ha : f.arrival = e.arrival)
    (hr : f.req = e.req) (hd : f.domain = e.domain) :
    ∀ x ∈ hold.map (fun x => if x.arrival = f.arrival then f else x),
      ∃ y ∈ hold, y.arrival = x.arrival ∧ y.req = x.req ∧ y.domain = x.domain := by
  intro x hx
  obtain ⟨z, hz, rfl⟩ := List.mem_map.1 hx
  split
  · exact ⟨e, he, ha.symm, hr.symm, hd.symm⟩
  · exact ⟨z, hz, rfl, rfl, rfl⟩

/-- What a state shares with another whose counters, faults, sweeps and records may differ. -/
structure AccessSame (s t : State) : Prop where
  hold : t.hold = s.hold
  host : t.host = s.host
  replay : t.replay = s.replay
  time : t.time = s.time

theorem AccessSame.trans {s t u : State} (h : AccessSame s t) (h' : AccessSame t u) : AccessSame s u :=
  ⟨h'.hold.trans h.hold, h'.host.trans h.host, h'.replay.trans h.replay, h'.time.trans h.time⟩

theorem State.count_same (s : State) (d : DomId) (c : Counter) (n : Nat) : AccessSame s (s.count d c n) := by
  obtain ⟨_, _, h⟩ := s.count_eq d c n
  rw [h]
  exact ⟨rfl, rfl, rfl, rfl⟩

theorem State.enqueueFault_same (s : State) (r : FaultRecord) : AccessSame s (s.enqueueFault r) := by
  obtain ⟨_, _, _, h⟩ := s.enqueueFault_eq r
  rw [h]
  exact ⟨rfl, rfl, rfl, rfl⟩

theorem State.requestSweep_same (s : State) (d : DomId) : AccessSame s (s.requestSweep d) := by
  rw [State.requestSweep_eq]
  exact ⟨rfl, rfl, rfl, rfl⟩

theorem State.allocateSlots_same (s : State) (d : DomId) (region : Fin 16) (lines : List Line) :
    AccessSame s (s.allocateSlots d region lines) := by
  obtain ⟨_, _, _, _, h⟩ := s.allocateSlots_eq d region lines
  rw [h]
  exact ⟨rfl, rfl, rfl, rfl⟩

/-- The state that a re-evaluation's other effects are added to may differ in counters, faults, sweeps and records. -/
theorem Reevaluates.then {s t u : State} (h : Reevaluates s t) (h' : AccessSame t u) : Reevaluates s u where
  hold x hx := h.hold x (h'.hold ▸ hx)
  marks a m hnone hs := by
    rw [State.MarkedAs, h'.host]
    exact h.marks a m hnone hs
  replay := h'.replay.trans h.replay
  time := h'.time.trans h.time

theorem Reevaluates.after {s t u : State} (h : AccessSame s t) (h' : Reevaluates t u) : Reevaluates s u where
  hold x hx := h.hold ▸ h'.hold x hx
  marks a m hnone hs := h'.marks a m (h.hold ▸ hnone) (by rw [State.MarkedAs, h.host]; exact hs)
  replay := h'.replay.trans h.replay
  time := h'.time.trans h.time

theorem State.sent_reevaluates {s : State} {e : Entry} (he : e ∈ s.hold) : Reevaluates s ((s.without e).sent e) := by
  refine .of_step he (fun x hx => s.without_from e x ?_) (.inr ⟨.forwarded, ?_⟩) ?_ ?_
  · rw [State.sent, State.setSide_hold] at hx
    exact hx
  · rw [State.sent, State.setSide_host]
    rfl
  · rw [State.sent, State.setSide_replay]
    rfl
  · rw [State.sent, State.setSide_time]
    rfl

theorem State.refused_reevaluates {s : State} {e : Entry} (he : e ∈ s.hold) :
    Reevaluates s ((s.without e).marked e.arrival .refused) :=
  .of_step he (s.without_from e) (.inr ⟨.refused, rfl⟩) rfl rfl

theorem State.replaceEntry_reevaluates {s : State} {e f : Entry} (he : e ∈ s.hold) (ha : f.arrival = e.arrival)
    (hr : f.req = e.req) (hd : f.domain = e.domain) : Reevaluates s (s.replaceEntry f) :=
  .of_step he (State.replaced_from he ha hr hd) (.inl rfl) rfl rfl

/-- A forwarding counts at most its filter hits (R93). -/
theorem State.forwardCounting_reevaluates {s : State} {e : Entry} (he : e ∈ s.hold) (n : Nat) :
    Reevaluates s (s.forwardCounting e n) := by
  have sent : Reevaluates s (s.forwardEntry e) := by
    rw [State.forwardEntry_eq]
    exact State.sent_reevaluates he
  unfold State.forwardCounting
  dsimp only
  split
  · split
    · exact sent
    · exact sent.then (State.count_same _ _ _ _)
  · exact sent

theorem State.carryOut_breakForward_reevaluates {s : State} {e : Entry} (he : e ∈ s.hold) :
    Reevaluates s (s.carryOut State.replaceEntry e .breakForward) := by
  unfold State.carryOut
  dsimp only
  split
  · next d _ =>
    have faulted : AccessSame s (s.journalFull d e) := s.enqueueFault_same _
    have broken : AccessSame s ((s.journalFull d e).breakDomain d) := by
      have hset : AccessSame (s.journalFull d e) (((s.journalFull d e).updDom d fun x => { x with state := .broken }).raise
          (.broken d)) := ⟨rfl, rfl, rfl, rfl⟩
      exact (faulted.trans hset).trans (State.requestSweep_same _ d)
    rw [State.forwardEntry_eq]
    exact .after broken (State.sent_reevaluates (broken.hold.symm ▸ he))
  · rw [State.forwardEntry_eq]
    exact State.sent_reevaluates he

/-- One re-evaluation, decision by decision (R90). -/
theorem State.reevaluated_reevaluates {s : State} {e : Entry} (he : e ∈ s.hold) : Reevaluates s (s.reevaluated e) := by
  unfold State.reevaluated
  rcases s.decision e with n | _ | _ | _ | ⟨w, ls, c⟩ | lines
  case forward => exact State.forwardCounting_reevaluates he n
  case breakForward => exact State.carryOut_breakForward_reevaluates he
  case hold => exact State.replaceEntry_reevaluates he rfl rfl rfl
  case refuseOff =>
    unfold State.carryOut
    dsimp only
    split
    · exact (State.refused_reevaluates he).then (State.count_same _ _ _ _)
    · exact State.refused_reevaluates he
  case refuseFull =>
    unfold State.carryOut
    dsimp only
    split
    · exact (State.refused_reevaluates he).then ((State.count_same _ _ _ _).trans (State.enqueueFault_same _ _))
    · exact State.refused_reevaluates he
  case allocate =>
    unfold State.carryOut
    dsimp only
    split
    · next d _ =>
      have allocated := s.allocateSlots_same d (e.region.getD 0) lines
      have he' : e ∈ (s.allocateSlots d (e.region.getD 0) lines).hold := by
        rw [allocated.hold]
        exact he
      exact .after allocated (State.replaceEntry_reevaluates he' rfl rfl rfl)
    · exact State.replaceEntry_reevaluates he rfl rfl rfl

theorem State.workList_reevaluates (fuel : Nat) : ∀ (todo seen : List Nat) (s : State),
    Reevaluates s (State.workList fuel todo seen s) := by
  induction fuel with
  | zero => exact fun _ _ s => .refl s
  | succ fuel ih =>
    intro todo seen s
    rcases hf : s.hold.find? (fun e => decide (e.arrival ∈ todo)) with _ | e
    · rw [State.workList_done hf]
      exact .refl s
    · rw [State.workList_step hf]
      exact (State.reevaluated_reevaluates (State.found_mem hf).1).trans (ih _ _ _)

/-- What the re-evaluations of a happening leave as it is (R91). -/
theorem State.reevaluate_reevaluates (s : State) (set : List Nat) : Reevaluates s (s.reevaluate set) :=
  State.workList_reevaluates _ _ _ s

theorem State.reevaluate_flag {s : State} {e : Event} (set : List Nat) (h : s.flag e = true) :
    (s.reevaluate set).flag e = true := s.reevaluate_closed (flagKept_closed e) set h

theorem State.reevaluate_pending {s : State} {d : DomId} (set : List Nat) (h : s.sweepPending d = true) :
    (s.reevaluate set).sweepPending d = true := s.reevaluate_closed (pendingKept_closed d) set h

/-- Outside OPEN a re-evaluation changes a domain's counters only (R15, R48, R52). -/
theorem State.reevaluate_dom {s : State} {d : DomId} {x : Domain} (hd : s.dom d = x) (hst : x.state ≠ .openState)
    (set : List Nat) : (s.reevaluate set).dom d = { x with counters := ((s.reevaluate set).dom d).counters } := by
  obtain ⟨cs, h⟩ := (s.reevaluate_judged set d).closed (by rw [hd]; exact hst)
  rw [h, hd]

end Sys2Proof.Machine
end

section
/-! PROOFS. The domain operations (chapter 2): their checks, how FORMAT and RECOVER leave OFF, how COMMIT, ROLLBACK and CLOSE
drain, and what each of them does when the drain ends at once. -/

namespace Sys2Proof.Machine

-- One declaration at a time: under the check's memory limit there is no room for many threads' stacks.
set_option Elab.async false

/-! ### The checks -/

/-- What an accepted operation starts (R25, R29, R32, R41). -/
def opStart : DomOp → State → DomId → State
  | .format => State.startFormat
  | .recover => State.startRecover
  | .commit => fun t d => (t.startDrain d .commit).endDrainIfDone d
  | .rollback => fun t d => (t.startDrain d .rollback).endDrainIfDone d
  | .close => fun t d => (t.startDrain d .close).endDrainIfDone d

section
variable {s : State} {b : Byte} {op : DomOp} {d : DomId}

theorem exec_operation (h : s.Receives 0x0A#8 (opArgs op b)) :
    exec (opCommand op b) s = .next (s.domainOp b op (opStart op)) := by
  have runs := inRequest_next (operationRequest b op) (fun s => s.domainOp b op (opStart op)) s h
  cases op <;> exact runs

theorem exec_operation_beyond (h : s.Receives 0x0A#8 (opArgs op b)) (hb : 4 ≤ b.toNat) :
    exec (opCommand op b) s = .next (s.reply 0x0A#8 (opArgs op b) .arg []) := by
  rw [exec_operation h, State.domainOp, domainOf_beyond hb]
  rfl

/-- A refused operation changes nothing but the reply (R25). -/
theorem exec_operation_refused (h : s.Receives 0x0A#8 (opArgs op b)) (hb : b.toNat = d.val) (hst : s.opStatus d op ≠ .ok) :
    exec (opCommand op b) s = .next (s.reply 0x0A#8 (opArgs op b) (s.opStatus d op) []) := by
  rw [exec_operation h, State.domainOp, domainOf_val hb]
  dsimp only
  split
  · next hok => exact absurd hok hst
  · rfl

/-- An accepted operation sets last operation and last result and starts (R25, R28). -/
theorem exec_operation_accepted (h : s.Receives 0x0A#8 (opArgs op b)) (hb : b.toNat = d.val) (hst : s.opStatus d op = .ok) :
    exec (opCommand op b) s = .next
      ((opStart op (s.setDom d { s.dom d with lastOp := some op, lastResult := .ok }) d).reply 0x0A#8 (opArgs op b) .ok []) := by
  rw [exec_operation h, State.domainOp, domainOf_val hb]
  dsimp only
  rw [hst]
  rfl

theorem transient_iff (st : DomState) : transient st = true ↔
    st = .formatting ∨ st = .recovering ∨ st = .draining ∨ st = .committing ∨ st = .rolling := by
  cases st <;> decide

theorem allowedIn_iff (op : DomOp) (st : DomState) : allowedIn op st = true ↔
    ((op = .format ∨ op = .recover) ∧ st = .off) ∨ (op = .rollback ∧ st = .openState) ∨
      ((op = .commit ∨ op = .close) ∧ (st = .openState ∨ st = .broken)) := by
  cases op <;> cases st <;> decide

theorem needsNextEpoch_iff (op : DomOp) : needsNextEpoch op = true ↔ op = .commit ∨ op = .rollback := by
  cases op <;> decide

theorem leavesOff_iff (op : DomOp) : leavesOff op = true ↔ op = .format ∨ op = .recover := by
  cases op <;> decide

theorem leavesOff_epoch (h : leavesOff op = true) : needsNextEpoch op = false := by
  revert h
  cases op <;> decide

theorem State.opStatus_busy (h : transient (s.dom d).state = true) : s.opStatus d op = .busy := if_pos h

theorem State.opStatus_state (hsettled : ¬transient (s.dom d).state = true)
    (h : ¬allowedIn op (s.dom d).state = true ∨ (needsNextEpoch op = true ∧ (s.dom d).epoch = BitVec.allOnes 32)) :
    s.opStatus d op = .state := by
  refine (if_neg hsettled).trans (if_pos ?_)
  rw [Bool.or_eq_true, Bool.not_eq_true', Bool.and_eq_true, decide_eq_true_eq]
  exact h.imp_left Bool.eq_false_iff.2

theorem State.opStatus_allowed (hsettled : ¬transient (s.dom d).state = true) (hallowed : allowedIn op (s.dom d).state = true)
    (hepoch : needsNextEpoch op = true → (s.dom d).epoch ≠ BitVec.allOnes 32) : s.opStatus d op =
      if leavesOff op && (decide ((s.dom d).config.capacity = 0) || !s.overlapPasses d) then .arg else .ok := by
  refine (if_neg hsettled).trans (if_neg fun hc => ?_)
  rw [Bool.or_eq_true, Bool.not_eq_true', Bool.and_eq_true, decide_eq_true_eq, hallowed] at hc
  exact hc.elim (fun h => absurd h (by decide)) fun ⟨hneeds, hlast⟩ => hepoch hneeds hlast

theorem allowedIn_settled {st : DomState} (h : allowedIn op st = true) : ¬transient st = true := by
  revert h
  cases op <;> cases st <;> decide

/-- COMMIT, ROLLBACK and CLOSE pass their checks in a state that allows them, below the last epoch (R25). -/
theorem State.opStatus_drains (hallowed : allowedIn op (s.dom d).state = true) (hop : leavesOff op = false)
    (hepoch : needsNextEpoch op = true → (s.dom d).epoch ≠ BitVec.allOnes 32) : s.opStatus d op = .ok := by
  rw [State.opStatus_allowed (allowedIn_settled hallowed) hallowed hepoch, hop]
  rfl

/-- FORMAT and RECOVER pass their checks in OFF with a capacity and without an overlap (R25). -/
theorem State.opStatus_leaves (hoff : (s.dom d).state = .off) (hop : leavesOff op = true)
    (hcapacity : (s.dom d).config.capacity ≠ 0) (hpass : s.overlapPasses d = true) : s.opStatus d op = .ok := by
  have hallowed : allowedIn op (s.dom d).state = true := by
    rw [hoff, allowedIn_iff]
    exact .inl ⟨(leavesOff_iff op).1 hop, rfl⟩
  rw [State.opStatus_allowed (allowedIn_settled hallowed) hallowed fun hneeds => by
    rw [leavesOff_epoch hop] at hneeds
    cases hneeds]
  rw [hop, hpass, decide_eq_false hcapacity]
  rfl

/-- The three overlaps that the overlap check refuses (R27). -/
theorem State.overlapPasses_eq_false (s : State) (d : DomId) : s.overlapPasses d = false ↔
    (∃ i : Fin 16, (s.regions[i].valid = true ∧ s.regions[i].mode = .journal) ∧
      regionMeetsAreas s.regions[i] (s.dom d).config = true) ∨
    (∃ (i : Fin 16) (o : DomId), (s.regions[i].valid = true ∧ s.regions[i].mode = .journal) ∧ s.regions[i].domain = d ∧
      o ≠ d ∧ (s.dom o).state ≠ .off ∧ regionMeetsAreas s.regions[i] (s.dom o).config = true) ∨
    (∃ o : DomId, o ≠ d ∧ (s.dom o).state ≠ .off ∧ areasOverlap (s.dom d).config (s.dom o).config = true) := by
  simp only [State.overlapPasses, Bool.and_eq_false_iff, List.all_eq_false, List.mem_filter, mem_allRegions, mem_allDoms,
    true_and, Bool.and_eq_true, decide_eq_true_eq, Bool.not_eq_true', Bool.not_eq_false', Bool.or_eq_false_iff,
    Bool.not_eq_true, Bool.not_eq_false, or_assoc, and_assoc, exists_and_left]

end

/-- Settles O36: by the checks in their order. -/
theorem domainOpsDecidedInOrder : Obligations.DomainOpsDecidedInOrder := by
  unfold Obligations.DomainOpsDecidedInOrder
  refine ⟨fun s b code h hcode => ?_, ?_⟩
  · have runs := inRequest_next (requestBytes domainOpcode [b, code]) (fun s =>
      if decide (code = 0) || decide (5 < code.toNat) then s.reply domainOpcode [b, code] .arg [] else s) s h
    refine (show exec (.domainOp b code) s = _ from runs).trans (congrArg _ (if_pos ?_))
    rw [Bool.or_eq_true, decide_eq_true_eq, decide_eq_true_eq]
    exact hcode
  · intro s b op h run answers
    refine ⟨exec_operation_beyond h, ?_⟩
    intro d hb x busy leaves allowed journal overlap
    have refused : ∀ st, s.opStatus d op = st → st ≠ .ok → answers st := fun st hst hne => by
      have hrun := exec_operation_refused h hb (by rw [hst]; exact hne)
      rw [hst] at hrun
      exact hrun
    refine ⟨fun hbusy => ?_, fun hnot hcase => ?_, fun hleaves hoff hbad => ?_⟩
    · exact refused .busy (State.opStatus_busy ((transient_iff _).2 hbusy)) (by decide)
    · refine refused .state (State.opStatus_state (fun hc => hnot ((transient_iff _).1 hc)) ?_) (by decide)
      rw [allowedIn_iff, needsNextEpoch_iff]
      exact hcase
    · have hallowed : allowedIn op (s.dom d).state = true := (allowedIn_iff _ _).2 (.inl ⟨hleaves, hoff⟩)
      have hneeds : needsNextEpoch op = true → (s.dom d).epoch ≠ BitVec.allOnes 32 := fun hn => by
        rcases hleaves with rfl | rfl <;> cases hn
      refine refused .arg ((State.opStatus_allowed (allowedIn_settled hallowed) hallowed hneeds).trans (if_pos ?_)) (by decide)
      rw [Bool.and_eq_true, Bool.or_eq_true, decide_eq_true_eq, Bool.not_eq_true', leavesOff_iff, s.overlapPasses_eq_false d]
      exact ⟨hleaves, hbad⟩

/-! ### The drain -/

theorem State.setDom_setDom (s : State) (d : DomId) (x y : Domain) : (s.setDom d x).setDom d y = s.setDom d y := by
  simp only [State.setDom, Vector.set_set]

/-- The state in which a drain begins: DRAINING with the operation pending (R32). -/
def State.draining (s : State) (d : DomId) (op : DomOp) (p : Pending) : State := { s with
  domains := s.domains.set d { s.dom d with state := .draining, pending := p, lastOp := some op, lastResult := .ok }
  hold := s.hold.map (drainEntry d) }

/-- The state in which a drain ends, before the operation goes on (R32). -/
def State.drainedAs (s : State) (d : DomId) (x : Domain) : State :=
  { s with domains := s.domains.set d { x with pending := .none }, hold := s.hold.map (drainedEntry d) }

section
variable {s : State} {d : DomId}

theorem State.draining_dom (s : State) (d : DomId) (op : DomOp) (p : Pending) : (s.draining d op p).dom d =
    { s.dom d with state := .draining, pending := p, lastOp := some op, lastResult := .ok } := s.setDom_dom_self d _

theorem State.drainedAs_dom (s : State) (d : DomId) (x : Domain) : (s.drainedAs d x).dom d = { x with pending := .none } :=
  s.setDom_dom_self d _

/-- An accepted operation begins its drain (R28, R32). -/
theorem State.startDrain_eq (s : State) (d : DomId) (op : DomOp) (p : Pending) :
    (s.setDom d { s.dom d with lastOp := some op, lastResult := .ok }).startDrain d p = s.draining d op p := by
  rw [State.startDrain, State.updDom, State.setDom_setDom, State.setDom_dom_self]
  rfl

theorem State.endDrainIfDone_other (h : (s.dom d).state ≠ .draining) : s.endDrainIfDone d = s :=
  if_neg fun hc => h (of_decide_eq_true (Bool.and_eq_true _ _ ▸ hc).1)

theorem State.endDrainIfDone_busy (h : (s.dom d).slotsInUse ≠ 0) : s.endDrainIfDone d = s :=
  if_neg fun hc => h (of_decide_eq_true (Bool.and_eq_true _ _ ▸ hc).2)

theorem State.endDrainIfDone_ends (hst : (s.dom d).state = .draining) (h : (s.dom d).slotsInUse = 0) :
    s.endDrainIfDone d = s.endDrain d := if_pos (by rw [hst, h]; rfl)

theorem State.drainEnded_eq (s : State) (d : DomId) : s.drainEnded d = s.drainedAs d (s.dom d) := rfl

theorem State.drainedAs_setDom (s : State) (d : DomId) (x y : Domain) (hy : y.pending = .none) :
    (s.drainedAs d x).setDom d y = s.drainedAs d y := by
  have hsame : ({ y with pending := .none } : Domain) = y := by rw [← hy]
  rw [State.drainedAs, State.drainedAs, hsame]
  exact congrArg (fun v => { s with domains := v, hold := s.hold.map (drainedEntry d) }) (Vector.set_set ..)

/-- The end of a COMMIT's drain: the anchor of the next epoch is prepared, broken mark or not (R32, R110). -/
theorem State.endDrain_commit (h : (s.dom d).pending = .commit) : s.endDrain d =
    (s.drainedAs d { s.dom d with state := .committing }).prepareAnchor d ((s.dom d).epoch + 1#32) .ok := by
  rw [State.endDrain_eq, h]
  dsimp only
  rw [State.drainEnded_eq, State.drainedAs_dom, State.updDom, State.drainedAs_dom, State.drainedAs_setDom _ _ _ _ rfl]
  rfl

/-- The end of a marked ROLLBACK's drain (R38). -/
theorem State.endDrain_marked (h : (s.dom d).pending = .rollback) (hmark : (s.dom d).brokenMark = true) : s.endDrain d =
    ((s.drainedAs d { s.dom d with state := .broken, brokenMark := false, lastResult := .failed, anchor := .idle }).raise
      (.done d)).releaseWaiters d := by
  rw [State.endDrain_eq, h]
  dsimp only
  rw [State.drainEnded_eq, State.drainedAs_dom, if_pos hmark, State.markedRollbackEnds, State.endOperation, State.updDom,
    State.updDom, State.drainedAs_dom, State.setDom_dom_self, State.setDom_setDom, State.drainedAs_setDom _ _ _ _ rfl]
  rfl

/-- The end of a ROLLBACK's drain with nothing to undo (R127, R128). -/
theorem State.endDrain_empty (h : (s.dom d).pending = .rollback) (hmark : (s.dom d).brokenMark = false)
    (hocc : (s.dom d).occupancy = 0) : s.endDrain d =
      (s.drainedAs d { s.dom d with state := .rolling }).prepareAnchor d ((s.dom d).epoch + 1#32) .ok := by
  have hno : ¬(s.dom d).brokenMark = true := by
    rw [hmark]
    decide
  rw [State.endDrain_eq, h]
  dsimp only
  rw [State.drainEnded_eq, State.drainedAs_dom, if_neg hno, State.enterRolling, State.updDom, State.drainedAs_dom,
    State.drainedAs_setDom _ _ _ _ rfl, if_pos hocc, State.rollbackWalkEnds, State.drainedAs_dom]
  rfl

/-- The end of a ROLLBACK's drain with records to undo: the replay engine is claimed (R120). -/
theorem State.endDrain_rolls (h : (s.dom d).pending = .rollback) (hmark : (s.dom d).brokenMark = false)
    (hocc : (s.dom d).occupancy ≠ 0) : s.endDrain d =
      (s.drainedAs d { s.dom d with state := .rolling }).claimEngine d := by
  have hno : ¬(s.dom d).brokenMark = true := by
    rw [hmark]
    decide
  rw [State.endDrain_eq, h]
  dsimp only
  rw [State.drainEnded_eq, State.drainedAs_dom, if_neg hno, State.enterRolling, State.updDom, State.drainedAs_dom,
    State.drainedAs_setDom _ _ _ _ rfl, if_neg hocc]
  rfl

/-- The end of a CLOSE's drain (R33, R34). -/
theorem State.endDrain_close (h : (s.dom d).pending = .close) : s.endDrain d =
    (((s.drainedAs d (s.dom d)).enterOff d).requestSweep d).endOperation d .ok := by
  rw [State.endDrain_eq, h, State.drainEnded_eq]

theorem State.operationWaiters_eq (s : State) (d : DomId) : s.operationWaiters d = s.waiting d [.drain, .roll, .space] := by
  have same : (fun e : Entry =>
      decide (e.domain = some d) && (decide (e.wait = .drain) || decide (e.wait = .roll) || decide (e.wait = .space))) =
      fun e => decide (e.domain = some d) && decide (e.wait ∈ [Wait.drain, .roll, .space]) := by
    funext e
    cases e.wait <;> simp
  rw [State.operationWaiters, State.arrivals, same, State.waiting]

theorem State.releaseWaiters_eq (s : State) (d : DomId) :
    s.releaseWaiters d = s.reevaluate (s.waiting d [.drain, .roll, .space]) := by
  rw [State.releaseWaiters, State.operationWaiters_eq]

end

/-- The drain that an operation begins with. -/
def opPending : DomOp → Pending
  | .commit => .commit
  | .rollback => .rollback
  | .close => .close
  | .format | .recover => .none

/-- An accepted COMMIT, ROLLBACK or CLOSE drains (R32). -/
theorem exec_drains {s : State} {b : Byte} {d : DomId} {op : DomOp} (h : s.Receives 0x0A#8 (opArgs op b))
    (hb : b.toNat = d.val) (hop : leavesOff op = false) (hallowed : allowedIn op (s.dom d).state = true)
    (hepoch : needsNextEpoch op = true → (s.dom d).epoch ≠ BitVec.allOnes 32) : exec (opCommand op b) s = .next
      (((s.draining d op (opPending op)).endDrainIfDone d).reply 0x0A#8 (opArgs op b) .ok []) := by
  rw [exec_operation_accepted h hb (State.opStatus_drains hallowed hop hepoch), ← State.startDrain_eq]
  cases op
  case format => cases hop
  case recover => cases hop
  all_goals rfl

theorem exec_drains_busy {s : State} {b : Byte} {d : DomId} {op : DomOp} (h : s.Receives 0x0A#8 (opArgs op b))
    (hb : b.toNat = d.val) (hop : leavesOff op = false) (hallowed : allowedIn op (s.dom d).state = true)
    (hepoch : needsNextEpoch op = true → (s.dom d).epoch ≠ BitVec.allOnes 32) (hslots : (s.dom d).slotsInUse ≠ 0) :
    exec (opCommand op b) s = .next ((s.draining d op (opPending op)).reply 0x0A#8 (opArgs op b) .ok []) := by
  rw [exec_drains h hb hop hallowed hepoch, State.endDrainIfDone_busy (by rw [State.draining_dom]; exact hslots)]

theorem exec_drains_done {s : State} {b : Byte} {d : DomId} {op : DomOp} (h : s.Receives 0x0A#8 (opArgs op b))
    (hb : b.toNat = d.val) (hop : leavesOff op = false) (hallowed : allowedIn op (s.dom d).state = true)
    (hepoch : needsNextEpoch op = true → (s.dom d).epoch ≠ BitVec.allOnes 32) (hslots : (s.dom d).slotsInUse = 0) :
    exec (opCommand op b) s = .next (((s.draining d op (opPending op)).endDrain d).reply 0x0A#8 (opArgs op b) .ok []) := by
  rw [exec_drains h hb hop hallowed hepoch, State.endDrainIfDone_ends (by rw [State.draining_dom])
    (by rw [State.draining_dom]; exact hslots)]

/-- Settles O38: the start by the checks, the end by what is pending. -/
theorem drainsBeginAndEnd : Obligations.DrainsBeginAndEnd := by
  unfold Obligations.DrainsBeginAndEnd
  refine ⟨?_, ?_, fun s d h => State.endDrainIfDone_other h⟩
  · intro s b d hb hslots x drains
    refine ⟨fun hst => ⟨fun he h => ?_, fun h => ?_⟩, fun hst he h => ?_⟩
    · exact exec_drains_busy h hb rfl ((allowedIn_iff _ _).2 (.inr (.inr ⟨.inl rfl, hst⟩))) (fun _ => he) hslots
    · exact exec_drains_busy h hb rfl ((allowedIn_iff _ _).2 (.inr (.inr ⟨.inr rfl, hst⟩))) (fun hn => nomatch hn) hslots
    · exact exec_drains_busy h hb rfl ((allowedIn_iff _ _).2 (.inr (.inl ⟨rfl, hst⟩))) (fun _ => he) hslots
  · intro s d hst x now
    refine ⟨State.endDrainIfDone_busy, fun hslots => ?_⟩
    rw [State.endDrainIfDone_ends hst hslots]
    refine ⟨State.endDrain_commit, fun hp hmark => ⟨_, rfl, ?_⟩, State.endDrain_empty, State.endDrain_rolls,
      fun hp => ⟨_, rfl, ?_⟩⟩
    · rw [State.endDrain_marked hp hmark, State.releaseWaiters_eq]
      rfl
    · rw [State.endDrain_close hp]
      rfl

/-! ### Anchors prepared -/

section
variable {s : State} {d : DomId} {e : Epoch} {r : OpResult}

theorem State.anchorClear_held (s : State) (d : DomId) (e : Epoch) (r : OpResult) :
    (s.setDom d { s.dom d with anchor := .held e r }).anchorClear d = s.anchorClear d := by
  have areas : (s.setDom d { s.dom d with anchor := .held e r }).areaWriteOut d = s.areaWriteOut d := by
    rw [State.areaWriteOut, State.areaWriteOut, State.setDom_dom_self]
    rfl
  rw [State.anchorClear, State.anchorClear, State.setDom_dom_self, areas]
  rfl

/-- An anchor prepared and handed over at once (R110, R111). -/
theorem State.prepareAnchor_goes (h : s.anchorClear d = true) : s.prepareAnchor d e r =
    (s.setDom d { s.dom d with anchor := .sent e r }).withOwn
      (anchorWrite d (s.dom d) e (s.deadlineIn s.time.memTimeout)) := by
  rw [State.prepareAnchor, State.updDom, State.handAnchorWrite_goes (e := e) (r := r) (by rw [State.setDom_dom_self])
    (by rw [State.anchorClear_held]; exact h), State.setDom_dom_self, State.setDom_setDom]
  rfl

/-- An anchor prepared that must wait (R82, R110). -/
theorem State.prepareAnchor_waits (h : ¬s.anchorClear d = true) : s.prepareAnchor d e r =
    s.setDom d { s.dom d with anchor := .held e r } := by
  rw [State.prepareAnchor, State.updDom, State.handAnchorWrite_waits fun _ _ _ => by rw [State.anchorClear_held]; exact h]

/-- The conditions of an anchor of a COMMIT, a ROLLBACK or a RECOVER (R82, R110). -/
theorem State.anchorClear_later (hst : (s.dom d).state ≠ .formatting) :
    s.anchorClear d = true ↔ s.sweepPending d = false ∧ s.anchorIdHeld d = false := by
  rw [State.anchorClear_iff]
  exact and_congr_right fun _ => ⟨fun ⟨_, h⟩ => h hst, fun h => ⟨fun hf => absurd hf hst, fun _ => h⟩⟩

theorem State.anchorBlocked (hst : (s.dom d).state ≠ .formatting)
    (h : s.sweepPending d = true ∨ s.anchorIdHeld d = true) : ¬s.anchorClear d = true := by
  rw [State.anchorClear_later hst]
  rintro ⟨hsweep, hid⟩
  rcases h with h | h
  · exact absurd (h.symm.trans hsweep) (by decide)
  · exact absurd (h.symm.trans hid) (by decide)

end

/-- The state in which the drain of an operation has ended with the domain in a new state. -/
def State.drainedTo (s : State) (d : DomId) (op : DomOp) (st : DomState) (job : AnchorJob) : State := { s with
  domains := s.domains.set d { s.dom d with
    state := st, pending := .none, lastOp := some op, lastResult := .ok, anchor := job }
  hold := (s.hold.map (drainEntry d)).map (drainedEntry d) }

/-- A drain that ends at once: both its ends in one state (R32). -/
theorem State.draining_drainedAs (s : State) (d : DomId) (op : DomOp) (p : Pending) (st : DomState) :
    (s.draining d op p).drainedAs d { (s.draining d op p).dom d with state := st } =
      s.drainedTo d op st (s.dom d).anchor := by
  rw [State.draining_dom]
  exact congrArg (fun v => { s with domains := v, hold := (s.hold.map (drainEntry d)).map (drainedEntry d) })
    (Vector.set_set ..)

theorem State.drainedTo_dom (s : State) (d : DomId) (op : DomOp) (st : DomState) (job : AnchorJob) :
    (s.drainedTo d op st job).dom d =
      { s.dom d with state := st, pending := .none, lastOp := some op, lastResult := .ok, anchor := job } :=
  s.setDom_dom_self d _

theorem State.drainedTo_anchor (s : State) (d : DomId) (op : DomOp) (st : DomState) (job job' : AnchorJob) :
    (s.drainedTo d op st job).setDom d { (s.drainedTo d op st job).dom d with anchor := job' } = s.drainedTo d op st job' := by
  rw [State.drainedTo_dom]
  exact congrArg (fun v => { s with domains := v, hold := (s.hold.map (drainEntry d)).map (drainedEntry d) })
    (Vector.set_set ..)

/-- The anchor prepared at the end of a drain that ends at once (R105, R110, R111). -/
theorem State.drainedTo_prepares {s : State} {d : DomId} {op : DomOp} {st : DomState} (hst : st ≠ .formatting) (e : Epoch) :
    (s.sweepPending d = true ∨ s.anchorIdHeld d = true →
      (s.drainedTo d op st (s.dom d).anchor).prepareAnchor d e .ok = s.drainedTo d op st (.held e .ok)) ∧
    (s.sweepPending d = false → s.anchorIdHeld d = false →
      (s.drainedTo d op st (s.dom d).anchor).prepareAnchor d e .ok =
        (s.drainedTo d op st (.sent e .ok)).withOwn (anchorWrite d
          { s.dom d with state := st, pending := .none, lastOp := some op, lastResult := .ok } e
          (s.deadlineIn s.time.memTimeout))) := by
  have hst' : ((s.drainedTo d op st (s.dom d).anchor).dom d).state ≠ .formatting := by
    rw [State.drainedTo_dom]
    exact hst
  refine ⟨fun h => ?_, fun hsweep hid => ?_⟩
  · rw [State.prepareAnchor_waits (State.anchorBlocked hst' h), State.drainedTo_anchor]
  · rw [State.prepareAnchor_goes ((State.anchorClear_later hst').2 ⟨hsweep, hid⟩), State.drainedTo_anchor,
      State.drainedTo_dom]
    rfl

/-- Settles O39: the drain ends at once, and the anchor is prepared. -/
theorem commitEntersCommitting : Obligations.CommitEntersCommitting := by
  unfold Obligations.CommitEntersCommitting
  intro s b d h hb hslots hst hepoch x next after
  have runs : exec (.commit b) s = _ := exec_drains_done h hb rfl ((allowedIn_iff _ _).2 (.inr (.inr ⟨.inl rfl, hst⟩)))
    (fun _ => hepoch) hslots
  have ended : (s.draining d .commit .commit).endDrain d =
      (s.drainedTo d .commit .committing x.anchor).prepareAnchor d next .ok := by
    rw [State.endDrain_commit (by rw [State.draining_dom]), State.draining_drainedAs, State.draining_dom]
  obtain ⟨waits, goes⟩ := State.drainedTo_prepares (s := s) (d := d) (op := .commit) (st := .committing) (by decide) next
  rw [runs, show opPending .commit = .commit from rfl, ended]
  refine ⟨fun hno => ?_, fun hsweep hid => ?_⟩
  · rw [waits hno]
    rfl
  · rw [goes hsweep hid]
    rfl

/-! ### The replay engine claimed -/

section
variable {s : State} {d : DomId}

theorem State.claimEngine_idle (hw : s.replay.walk = none) (hl : s.replay.waiting = []) :
    s.claimEngine d = s.startWalk d := if_pos (by rw [hw, hl]; rfl)

theorem State.claimEngine_busy (h : s.replay.walk ≠ none ∨ s.replay.waiting ≠ []) :
    s.claimEngine d = { s with replay := { s.replay with waiting := s.replay.waiting ++ [d] } } :=
  if_neg fun hc => by
    rw [Bool.and_eq_true, decide_eq_true_eq, decide_eq_true_eq] at hc
    exact h.elim (fun h => h hc.1) fun h => h hc.2

theorem State.startWalk_recover (h : (s.dom d).state = .recovering) :
    s.startWalk d = (s.setWalk (some (recoverWalk d))).handAnchorRead := if_pos h

/-- The position below the top record (R119). -/
theorem lowerCursor_top {n : Nat} (h : n ≠ 0) : lowerCursor (n - 1) = if n = 1 then none else some (n - 2) := by
  rw [lowerCursor]
  by_cases h1 : n = 1
  · rw [if_pos h1, if_pos (by omega)]
  · rw [if_neg h1, if_neg (by omega), Nat.sub_sub]

/-- The walk of a ROLLBACK begins with the read of its top record (R120, R121, R127). -/
theorem State.startWalk_rollback (h : (s.dom d).state ≠ .recovering) : s.startWalk d =
    (s.setWalk (some { rollbackWalk d (s.dom d) with
      readOut := some ((s.dom d).occupancy - 1), cursor := lowerCursor ((s.dom d).occupancy - 1) })).withOwn
        (recordRead d (s.dom d).config ((s.dom d).occupancy - 1) (s.deadlineIn s.time.memTimeout)) := by
  have reads : (rollbackWalk d (s.dom d)).Reads ((s.dom d).occupancy - 1) := ⟨rfl, rfl, rfl, rfl⟩
  rw [State.startWalk, if_neg h, State.issueRecordRead_goes (s := s.setWalk (some (rollbackWalk d (s.dom d)))) rfl reads]
  rfl

end

/-- Settles O40: by the broken mark, the occupancy and the replay engine. -/
theorem rollbackEntersRolling : Obligations.RollbackEntersRolling := by
  unfold Obligations.RollbackEntersRolling
  intro s b d h hb hslots hst hepoch x next after answers deadline
  have runs : exec (.rollback b) s = _ := exec_drains_done h hb rfl ((allowedIn_iff _ _).2 (.inr (.inl ⟨rfl, hst⟩)))
    (fun _ => hepoch) hslots
  have hpending : ((s.draining d .rollback .rollback).dom d).pending = .rollback := by rw [State.draining_dom]
  have hmarks : ((s.draining d .rollback .rollback).dom d).brokenMark = x.brokenMark := by rw [State.draining_dom]
  have hoccs : ((s.draining d .rollback .rollback).dom d).occupancy = x.occupancy := by rw [State.draining_dom]
  obtain ⟨waits, goes⟩ := State.drainedTo_prepares (s := s) (d := d) (op := .rollback) (st := .rolling) (by decide) next
  rw [show opPending .rollback = .rollback from rfl] at runs
  refine ⟨fun hmark => ⟨_, runs, ?_⟩, fun hmark hocc => ?_, fun hmark hocc hw hl => ?_, fun hmark hocc hno => ?_⟩
  · rw [State.endDrain_marked hpending (hmarks.trans hmark), State.releaseWaiters_eq]
    refine ⟨State.reevaluate_flag _ (State.raise_flag _ _), ?_⟩
    have hdom : ((s.draining d .rollback .rollback).drainedAs d { (s.draining d .rollback .rollback).dom d with
          state := .broken, brokenMark := false, lastResult := .failed, anchor := .idle }).dom d =
        { x with state := .broken, pending := .none, lastOp := some .rollback, lastResult := .failed, brokenMark := false,
                 anchor := .idle } := by
      rw [State.drainedAs_dom, State.draining_dom]
    generalize State.drainedAs _ d _ = v at hdom ⊢
    exact State.reevaluate_dom (s := v.raise (.done d)) hdom (fun hopen => nomatch hopen) _
  · have ended : (s.draining d .rollback .rollback).endDrain d =
        (s.drainedTo d .rollback .rolling x.anchor).prepareAnchor d next .ok := by
      rw [State.endDrain_empty hpending (hmarks.trans hmark) (hoccs.trans hocc), State.draining_drainedAs, State.draining_dom]
    refine ⟨fun hno => ?_, fun hsweep hid => ?_⟩
    · show exec (.rollback b) s = _
      rw [runs, ended, waits hno]
      rfl
    · show exec (.rollback b) s = _
      rw [runs, ended, goes hsweep hid]
      rfl
  · have ended : (s.draining d .rollback .rollback).endDrain d =
        (s.drainedTo d .rollback .rolling x.anchor).startWalk d := by
      rw [State.endDrain_rolls hpending (hmarks.trans hmark) (by rw [hoccs]; exact hocc), State.draining_drainedAs,
        State.claimEngine_idle (s := s.drainedTo d .rollback .rolling (s.dom d).anchor) hw hl]
    show exec (.rollback b) s = _
    rw [runs, ended, State.startWalk_rollback (by rw [State.drainedTo_dom]; exact fun hno => nomatch hno), State.drainedTo_dom]
    dsimp only
    rw [lowerCursor_top hocc]
    rfl
  · show exec (.rollback b) s = _
    rw [runs, State.endDrain_rolls hpending (hmarks.trans hmark) (by rw [hoccs]; exact hocc), State.draining_drainedAs,
      State.claimEngine_busy (s := s.drainedTo d .rollback .rolling (s.dom d).anchor) hno]
    rfl

/-! ### Entry to OFF -/

/-- One held entry of a domain entering OFF (R34). -/
theorem State.offEntry_eq (d : DomId) (t : State) (e : Entry) : State.offEntry d t e =
    if e.req.kind = .write then ((t.without e).marked e.arrival .refused).count d .refused 1
    else if e.wait = .order then
      { t with hold := t.hold.map fun x => if x.arrival = e.arrival then { e with domain := none } else x }
    else (t.without e).sent e := by
  unfold State.offEntry
  rcases hk : e.req.kind with _ | _
  · rw [if_neg (show ¬Dir.read = Dir.write by decide)]
    dsimp only
    rw [State.forwardEntry_eq]
    rfl
  · rw [if_pos rfl]
    rfl

/-- A domain's record as it enters OFF (R34). -/
def Domain.closed (x : Domain) : Domain :=
  { x with state := .off, occupancy := 0, pressure := false, brokenMark := false, anchor := .idle }

/-- The held entries of a domain. -/
def State.entriesOf (s : State) (d : DomId) : List Entry := s.hold.filter fun e => decide (e.domain = some d)

/-- A domain in OFF with its held entries dealt with in arrival order (R34). -/
def State.dealt (s : State) (d : DomId) : State :=
  (s.entriesOf d).foldl (State.offEntry d) (s.setDom d (s.dom d).closed)

/-- The entry to OFF: the dealings, and then the ORDER waiters behind those that have left (R34, R91). -/
theorem State.enterOff_eq (s : State) (d : DomId) : s.enterOff d = (s.dealt d).reevaluate ((s.dealt d).behind
    ((s.entriesOf d).filter fun e => decide (e.req.kind = .write) || decide (e.wait ≠ .order))) := rfl

/-- A dealing keeps or drops its entry, and marks at most its own request. -/
theorem State.offEntry_hold {d : DomId} {t : State} {e : Entry} :
    ∀ x ∈ (State.offEntry d t e).hold, x.domain = some d → x ∈ t.hold ∧ x.arrival ≠ e.arrival := by
  intro x hx hd
  rw [State.offEntry_eq] at hx
  split at hx
  · rw [State.count_hold] at hx
    have := List.mem_filter.1 hx
    exact ⟨this.1, of_decide_eq_true this.2⟩
  · split at hx
    · obtain ⟨y, hy, rfl⟩ := List.mem_map.1 hx
      by_cases hye : y.arrival = e.arrival
      · rw [if_pos hye] at hd
        cases hd
      · rw [if_neg hye] at hd ⊢
        exact ⟨hy, hye⟩
    · rw [State.sent, State.setSide_hold] at hx
      have := List.mem_filter.1 hx
      exact ⟨this.1, of_decide_eq_true this.2⟩

theorem State.dealing_hold {d : DomId} (l : List Entry) : ∀ t : State,
    ∀ x ∈ (l.foldl (State.offEntry d) t).hold, x.domain = some d → x ∈ t.hold ∧ ∀ e ∈ l, x.arrival ≠ e.arrival := by
  induction l with
  | nil => exact fun t x hx _ => ⟨hx, fun e he => nomatch he⟩
  | cons e l ih =>
    intro t x hx hd
    obtain ⟨hmem, hother⟩ := ih _ x hx hd
    obtain ⟨hmem', hne⟩ := State.offEntry_hold x hmem hd
    refine ⟨hmem', fun y hy => ?_⟩
    rcases List.mem_cons.1 hy with rfl | hy
    · exact hne
    · exact hother y hy

/-- After the dealings no held entry belongs to the domain (R34). -/
theorem State.dealt_hold (s : State) (d : DomId) : ∀ x ∈ (s.dealt d).hold, x.domain ≠ some d := by
  intro x hx hd
  obtain ⟨hmem, hother⟩ := State.dealing_hold _ _ x hx hd
  exact hother x (List.mem_filter.2 ⟨hmem, decide_eq_true hd⟩) rfl

theorem State.offEntry_judged (d : DomId) (t : State) (e : Entry) : t.JudgedTo (State.offEntry d t e) := by
  unfold State.offEntry
  split
  · exact (State.refused_judged t e).trans (State.count_judged _ _ _ _)
  · split
    · exact .of_domains rfl
    · exact .of_domains (State.forwardEntry_domains t e)

theorem State.dealing_judged (d : DomId) (l : List Entry) : ∀ t : State, t.JudgedTo (l.foldl (State.offEntry d) t) := by
  induction l with
  | nil => exact fun t => .of_domains rfl
  | cons e l ih => exact fun t => (State.offEntry_judged d t e).trans (ih _)

/-- The record of a domain that has entered OFF: everything but its counters is fixed (R34). -/
theorem State.enterOff_dom (s : State) (d : DomId) : (s.enterOff d).dom d =
    { (s.dom d).closed with counters := ((s.enterOff d).dom d).counters } := by
  have judged : State.JudgedTo (s.setDom d (s.dom d).closed) (s.enterOff d) :=
    (State.dealing_judged d _ _).trans ((s.dealt d).reevaluate_judged _)
  obtain ⟨cs, h⟩ := (judged d).closed (by rw [State.setDom_dom_self]; exact fun hno => nomatch hno)
  rw [h, State.setDom_dom_self]

theorem State.enterOff_hold (s : State) (d : DomId) : ∀ x ∈ (s.enterOff d).hold, x.domain ≠ some d := by
  intro x hx hd
  obtain ⟨y, hy, _, _, hdom⟩ := ((s.dealt d).reevaluate_reevaluates _).hold x hx
  exact s.dealt_hold d y hy (hdom.trans hd)

/-- A request that has left the queue refused (R94). -/
structure State.RefusedOut (s : State) (a : Nat) : Prop where
  out : ∀ y ∈ s.hold, y.arrival ≠ a
  mark : s.MarkedAs a .refused

theorem State.offEntry_refuses {d : DomId} {t : State} {e : Entry} (hk : e.req.kind = .write) :
    (State.offEntry d t e).RefusedOut e.arrival := by
  have same := State.count_same ((t.without e).marked e.arrival .refused) d .refused 1
  rw [State.offEntry_eq, if_pos hk]
  refine ⟨fun y hy => ?_, ?_⟩
  · rw [same.hold] at hy
    exact of_decide_eq_true (List.mem_filter.1 hy).2
  · rw [State.MarkedAs, same.host]
    exact State.marked_markedAs (t.without e) e.arrival .refused

theorem State.offEntry_keeps {d : DomId} {t : State} {e : Entry} {a : Nat} (ha : e.arrival ≠ a) (h : t.RefusedOut a) :
    (State.offEntry d t e).RefusedOut a := by
  obtain ⟨out, mark⟩ := h
  have without_out : ∀ y ∈ (t.without e).hold, y.arrival ≠ a := fun y hy => out y (List.mem_filter.1 hy).1
  rw [State.offEntry_eq]
  split
  · have same := State.count_same ((t.without e).marked e.arrival .refused) d .refused 1
    refine ⟨same.hold ▸ without_out, ?_⟩
    rw [State.MarkedAs, same.host]
    exact State.MarkedAs.marked (s := t.without e) mark ha
  · split
    · refine ⟨fun y hy => ?_, mark⟩
      obtain ⟨z, hz, rfl⟩ := List.mem_map.1 hy
      split
      · exact ha
      · exact out z hz
    · refine ⟨fun y hy => ?_, ?_⟩
      · rw [State.sent, State.setSide_hold] at hy
        exact without_out y hy
      · rw [State.MarkedAs, State.sent, State.setSide_host]
        exact State.MarkedAs.marked (s := t.without e) mark ha

theorem State.dealing_keeps {d : DomId} {a : Nat} (l : List Entry) (hl : ∀ e ∈ l, e.arrival ≠ a) : ∀ t : State,
    t.RefusedOut a → (l.foldl (State.offEntry d) t).RefusedOut a := by
  induction l with
  | nil => exact fun t h => h
  | cons e l ih =>
    exact fun t h => ih (fun x hx => hl x (List.mem_cons_of_mem _ hx)) _ (State.offEntry_keeps (hl e List.mem_cons_self) h)

theorem State.dealing_refuses {d : DomId} {e : Entry} (hk : e.req.kind = .write) (l : List Entry) (he : e ∈ l)
    (hl : l.Pairwise (fun x y => x.arrival < y.arrival)) : ∀ t : State,
      (l.foldl (State.offEntry d) t).RefusedOut e.arrival := by
  induction l with
  | nil => cases he
  | cons f l ih =>
    intro t
    obtain ⟨hhead, htail⟩ := List.pairwise_cons.1 hl
    rcases List.mem_cons.1 he with rfl | he
    · exact State.dealing_keeps l (fun x hx => (Nat.ne_of_lt (hhead x hx)).symm) _ (State.offEntry_refuses hk)
    · exact ih he htail _

/-- The held writes of a domain that enters OFF are refused (R34). -/
theorem State.enterOff_refuses {s : State} {d : DomId} (h : s.hold.Pairwise (fun x y => x.arrival < y.arrival)) {e : Entry}
    (he : e ∈ s.hold) (hd : e.domain = some d) (hk : e.req.kind = .write) :
    (s.enterOff d).MarkedAs e.arrival .refused := by
  have out : (s.dealt d).RefusedOut e.arrival :=
    State.dealing_refuses hk _ (List.mem_filter.2 ⟨he, decide_eq_true hd⟩) (h.sublist List.filter_sublist) _
  exact ((s.dealt d).reevaluate_reevaluates _).marks _ _ out.out out.mark

/-- A drain changes of a held entry neither the request nor the domain nor the place (R32). -/
theorem drainEntry_same (d : DomId) (e : Entry) :
    (drainedEntry d (drainEntry d e)).arrival = e.arrival ∧ (drainedEntry d (drainEntry d e)).req = e.req ∧
      (drainedEntry d (drainEntry d e)).domain = e.domain := by
  have drains : (drainEntry d e).arrival = e.arrival ∧ (drainEntry d e).req = e.req ∧ (drainEntry d e).domain = e.domain := by
    unfold drainEntry
    split
    · split <;> exact ⟨rfl, rfl, rfl⟩
    · exact ⟨rfl, rfl, rfl⟩
  unfold drainedEntry
  split <;> exact drains

/-- Settles O41: the dealings by entry, and a CLOSE whose drain ends at once. -/
theorem closeEntersOff : Obligations.CloseEntersOff := by
  unfold Obligations.CloseEntersOff
  refine ⟨?_, ?_⟩
  · intro s d mine deal
    have hdeal : State.offEntry d = deal := funext fun t => funext fun e => State.offEntry_eq d t e
    exact ⟨_, rfl, hdeal ▸ s.enterOff_eq d⟩
  · intro s b d h hb hslots hst x drained
    have runs : exec (.close b) s = _ := exec_drains_done h hb rfl ((allowedIn_iff _ _).2 (.inr (.inr ⟨.inr rfl, hst⟩)))
      (fun hn => nomatch hn) hslots
    have hdrained : (s.draining d .close .close).drainedAs d ((s.draining d .close .close).dom d) = drained := by
      rw [State.draining_dom]
      exact congrArg (fun v => { s with domains := v, hold := (s.hold.map (drainEntry d)).map (drainedEntry d) })
        (Vector.set_set ..)
    rw [show opPending .close = .close from rfl, State.endDrain_close (by rw [State.draining_dom]), hdrained] at runs
    have hrecord : drained.dom d =
        { x with state := .draining, pending := .none, lastOp := some .close, lastResult := .ok } := s.setDom_dom_self d _
    have swept := State.requestSweep_same (drained.enterOff d) d
    have hdom : ((drained.enterOff d).requestSweep d).dom d = (drained.enterOff d).dom d := by
      rw [State.dom, State.dom, State.requestSweep_domains]
    refine ⟨_, _, runs, rfl, rfl, ?_, State.raise_flag _ _, State.requestSweep_pending _ d, ?_, fun hordered e he hd hk => ?_⟩
    · have ht : ((((drained.enterOff d).requestSweep d).setDom d { ((drained.enterOff d).requestSweep d).dom d with
          lastResult := .ok, anchor := .idle }).dom d) = { (drained.enterOff d).dom d with
            lastResult := .ok, anchor := .idle } := by
        rw [State.setDom_dom_self, hdom]
      refine Eq.trans ht ?_
      show _ = { x with
        state := .off, occupancy := 0, pressure := false, brokenMark := false, pending := .none,
        lastOp := some .close, lastResult := .ok, anchor := .idle,
        counters := (State.dom (State.setDom ((drained.enterOff d).requestSweep d) d _) d).counters }
      rw [State.setDom_dom_self, hdom, drained.enterOff_dom d, hrecord]
      rfl
    · show ∀ e ∈ ((drained.enterOff d).requestSweep d).hold, e.domain ≠ some d
      rw [swept.hold]
      exact drained.enterOff_hold d
    · show State.MarkedAs ((drained.enterOff d).requestSweep d) e.arrival .refused
      rw [State.MarkedAs, swept.host]
      obtain ⟨harrival, hreq, hdomain⟩ := drainEntry_same d e
      have hpair : drained.hold.Pairwise (fun x y => x.arrival < y.arrival) :=
        List.pairwise_map.2 (List.pairwise_map.2 (hordered.1.imp fun {x y} hxy => by
          rw [(drainEntry_same d x).1, (drainEntry_same d y).1]
          exact hxy))
      have hmem : drainedEntry d (drainEntry d e) ∈ drained.hold := List.mem_map_of_mem (List.mem_map_of_mem he)
      have refused := State.enterOff_refuses hpair hmem (hdomain.trans hd) (by rw [hreq]; exact hk)
      rw [harrival] at refused
      exact refused

/-! ### Leaving OFF -/

/-- The held writes that meet the areas of a domain, in arrival order (R13). -/
def State.meeting (s : State) (c : DomainConfig) : List Entry :=
  s.hold.filter fun e => decide (e.req.kind = .write) && meetsAreas e.req.header c

/-- A domain that has left OFF, with the held writes that it meets refused (R13, R25). -/
def State.leftOff (s : State) (d : DomId) (op : DomOp) (st : DomState) : State :=
  (s.meeting (s.dom d).config).foldl (State.guardEntry d)
    (s.setDom d { s.dom d with state := st, lastOp := some op, lastResult := .ok })

theorem State.leaveOff_eq (s : State) (d : DomId) (op : DomOp) (st : DomState) :
    (s.setDom d { s.dom d with lastOp := some op, lastResult := .ok }).leaveOff d st =
      (s.leftOff d op st).reevaluate ((s.leftOff d op st).behind (s.meeting (s.dom d).config)) := by
  rw [State.leaveOff, State.updDom, State.setDom_setDom, State.setDom_dom_self, State.setDom_dom_self]
  rfl

theorem State.guardEntry_eq (d : DomId) (t : State) (e : Entry) : State.guardEntry d t e =
    (((t.without e).marked e.arrival .refused).countGlobal .guardRefused).enqueueFault
      (requestFault .guardWrite t.time.tick (some d) e) := rfl

/-- What a refusal by the guard leaves: the records, the replay engine, and every other entry (R13). -/
theorem State.guardEntry_rest (d : DomId) (t : State) (e : Entry) :
    (State.guardEntry d t e).domains = t.domains ∧ (State.guardEntry d t e).replay = t.replay ∧
      ∀ x ∈ (State.guardEntry d t e).hold, x ∈ t.hold ∧ x.arrival ≠ e.arrival := by
  rw [State.guardEntry_eq]
  have same := State.enqueueFault_same (((t.without e).marked e.arrival .refused).countGlobal .guardRefused)
    (requestFault .guardWrite t.time.tick (some d) e)
  refine ⟨State.enqueueFault_domains _ _, same.replay, fun x hx => ?_⟩
  rw [same.hold] at hx
  exact ⟨(List.mem_filter.1 hx).1, of_decide_eq_true (List.mem_filter.1 hx).2⟩

theorem State.guarding_rest (d : DomId) (l : List Entry) : ∀ t : State,
    (l.foldl (State.guardEntry d) t).domains = t.domains ∧ (l.foldl (State.guardEntry d) t).replay = t.replay ∧
      ∀ x ∈ (l.foldl (State.guardEntry d) t).hold, x ∈ t.hold ∧ ∀ e ∈ l, x.arrival ≠ e.arrival := by
  induction l with
  | nil => exact fun t => ⟨rfl, rfl, fun x hx => ⟨hx, fun e he => nomatch he⟩⟩
  | cons e l ih =>
    intro t
    obtain ⟨hdomains, hreplay, hhold⟩ := ih (State.guardEntry d t e)
    obtain ⟨hdomains', hreplay', hhold'⟩ := State.guardEntry_rest d t e
    refine ⟨hdomains.trans hdomains', hreplay.trans hreplay', fun x hx => ?_⟩
    obtain ⟨hmem, hother⟩ := hhold x hx
    obtain ⟨hmem', hne⟩ := hhold' x hmem
    exact ⟨hmem', List.forall_mem_cons.2 ⟨hne, hother⟩⟩

/-- No held write meets the areas. -/
def State.ClearOf (s : State) (c : DomainConfig) : Prop :=
  ∀ e ∈ s.hold, e.req.kind = .write → meetsAreas e.req.header c = false

/-- What leaving OFF comes to: the record, the queue clear of the areas, and the replay engine as it was (R13, R25). -/
structure State.OffLeft (s : State) (d : DomId) (op : DomOp) (st : DomState) (t : State) : Prop where
  record : t.dom d = { s.dom d with
    state := st, lastOp := some op, lastResult := .ok, counters := (t.dom d).counters }
  clear : t.ClearOf (s.dom d).config
  replay : t.replay = s.replay

theorem State.leaveOff_left (s : State) (d : DomId) (op : DomOp) {st : DomState} (hst : st ≠ .openState) :
    s.OffLeft d op st ((s.setDom d { s.dom d with lastOp := some op, lastResult := .ok }).leaveOff d st) := by
  rw [State.leaveOff_eq]
  obtain ⟨hdomains, hreplay, hhold⟩ := State.guarding_rest d (s.meeting (s.dom d).config)
    (s.setDom d { s.dom d with state := st, lastOp := some op, lastResult := .ok })
  have hdom : (s.leftOff d op st).dom d = { s.dom d with state := st, lastOp := some op, lastResult := .ok } := by
    rw [State.leftOff, State.dom, hdomains]
    exact s.setDom_dom_self d _
  have kept := State.reevaluate_reevaluates (s.leftOff d op st) ((s.leftOff d op st).behind (s.meeting (s.dom d).config))
  refine ⟨State.reevaluate_dom hdom hst _, fun e he hk => ?_, kept.replay.trans hreplay⟩
  obtain ⟨y, hy, _, hreq, _⟩ := kept.hold e he
  obtain ⟨hmem, hother⟩ := hhold y hy
  rw [← hreq] at hk ⊢
  refine Bool.eq_false_iff.2 fun hmeets => hother y (List.mem_filter.2 ⟨hmem, ?_⟩) rfl
  rw [hk, hmeets]
  rfl

/-- What preparing an anchor leaves: the job in the domain's record, and the queue as it is (R110). -/
theorem State.prepareAnchor_job (s : State) (d : DomId) (e : Epoch) (r : OpResult) :
    ∃ job, (job = .sent e r ∨ job = .held e r) ∧ (s.prepareAnchor d e r).dom d = { s.dom d with anchor := job } ∧
      (s.prepareAnchor d e r).hold = s.hold := by
  by_cases hclear : s.anchorClear d = true
  · refine ⟨.sent e r, .inl rfl, ?_, ?_⟩
    · rw [State.prepareAnchor_goes hclear, State.withOwn_write _ rfl]
      exact s.setDom_dom_self d _
    · rw [State.prepareAnchor_goes hclear, State.withOwn_write _ rfl]
      rfl
  · refine ⟨.held e r, .inr rfl, ?_, ?_⟩
    · rw [State.prepareAnchor_waits hclear]
      exact s.setDom_dom_self d _
    · rw [State.prepareAnchor_waits hclear]
      rfl

/-- What a claim of the replay engine by a RECOVER leaves: the record and the queue as they are (R120, R131). -/
theorem State.claimEngine_recover {s : State} {d : DomId} (hst : (s.dom d).state = .recovering) :
    (s.claimEngine d).dom d = s.dom d ∧ (s.claimEngine d).hold = s.hold ∧
      (s.replay.walk = none → s.replay.waiting = [] → ∃ w, (s.claimEngine d).replay.walk = some w ∧ w.kind = .recover ∧
        w.domain = d ∧ (s.claimEngine d).replay.waiting = [] ∧
          (w.phase = .anchorRead .waiting ∨ w.phase = .anchorRead .slot0)) ∧
      (s.replay.walk ≠ none ∨ s.replay.waiting ≠ [] →
        (s.claimEngine d).replay = { s.replay with waiting := s.replay.waiting ++ [d] }) := by
  by_cases hidle : s.replay.walk = none ∧ s.replay.waiting = []
  · obtain ⟨hw, hl⟩ := hidle
    rw [State.claimEngine_idle hw hl, State.startWalk_recover hst]
    obtain ⟨reads, phase, h, starts, startsNot⟩ :=
      State.handAnchorRead_cases (s := s.setWalk (some (recoverWalk d))) (w := recoverWalk d) rfl
    rw [h]
    refine ⟨rfl, rfl, fun _ _ => ⟨_, rfl, rfl, rfl, hl, ?_⟩, fun hno => (hno.elim (absurd hw) (absurd hl))⟩
    by_cases hs : State.AnchorReadStarts (s.setWalk (some (recoverWalk d))) (recoverWalk d)
    · exact .inr (starts hs).1
    · exact .inl (startsNot hs).1
  · have hbusy : s.replay.walk ≠ none ∨ s.replay.waiting ≠ [] := not_and_or.1 hidle
    rw [State.claimEngine_busy hbusy]
    exact ⟨rfl, rfl, fun hw hl => absurd ⟨hw, hl⟩ hidle, fun _ => rfl⟩

/-- Settles O37: leaving OFF, and then the anchor or the replay engine. -/
theorem formatAndRecoverLeaveOff : Obligations.FormatAndRecoverLeaveOff := by
  unfold Obligations.FormatAndRecoverLeaveOff
  intro s b d hb hoff hcapacity hpass x clear met refuse left
  refine ⟨fun h => ?_, fun h => ?_⟩
  · have runs : exec (.format b) s = .next (State.reply ((((s.setDom d { x with lastOp := some .format, lastResult := .ok
        }).leaveOff d .formatting).prepareAnchor d 1#32 .ok)) 0x0A#8 (opArgs .format b) .ok []) :=
      exec_operation_accepted h hb (State.opStatus_leaves hoff rfl hcapacity hpass)
    have gone := s.leaveOff_left d .format (st := .formatting) (by decide)
    have hform := s.leaveOff_eq d .format .formatting
    refine ⟨_, _, runs, rfl, congrArg (fun v => State.reply (State.prepareAnchor v d 1#32 .ok) 0x0A#8 (opArgs .format b) .ok [])
      hform, ?_⟩
    generalize State.leaveOff _ d .formatting = v at gone runs ⊢
    obtain ⟨job, hjob, hdom, hhold⟩ := v.prepareAnchor_job d 1#32 .ok
    refine ⟨?_, ?_, ?_⟩
    · show State.ClearOf (v.prepareAnchor d 1#32 .ok) x.config
      rw [State.ClearOf, hhold]
      exact gone.clear
    · have hanchor : ((v.prepareAnchor d 1#32 .ok).dom d).anchor = job := congrArg Domain.anchor hdom
      rwa [← hanchor] at hjob
    · rw [gone.record] at hdom
      show (v.prepareAnchor d 1#32 .ok).dom d = { x with
        state := .formatting, lastOp := some .format, lastResult := .ok,
        anchor := ((v.prepareAnchor d 1#32 .ok).dom d).anchor,
        counters := ((v.prepareAnchor d 1#32 .ok).dom d).counters }
      rw [hdom]
  · have runs : exec (.recover b) s = .next (State.reply ((((s.setDom d { x with lastOp := some .recover, lastResult := .ok
        }).leaveOff d .recovering).claimEngine d)) 0x0A#8 (opArgs .recover b) .ok []) :=
      exec_operation_accepted h hb (State.opStatus_leaves hoff rfl hcapacity hpass)
    have gone := s.leaveOff_left d .recover (st := .recovering) (by decide)
    have hform := s.leaveOff_eq d .recover .recovering
    refine ⟨_, _, runs, rfl, congrArg (fun v => State.reply (State.claimEngine v d) 0x0A#8 (opArgs .recover b) .ok [])
      hform, ?_⟩
    generalize State.leaveOff _ d .recovering = v at gone runs ⊢
    obtain ⟨hdom, hhold, idle, busy⟩ := State.claimEngine_recover (s := v) (d := d) (by rw [gone.record])
    rw [gone.replay] at idle busy
    refine ⟨?_, ?_, idle, busy⟩
    · show State.ClearOf (v.claimEngine d) x.config
      rw [State.ClearOf, hhold]
      exact gone.clear
    · show (v.claimEngine d).dom d = { x with
        state := .recovering, lastOp := some .recover, lastResult := .ok, counters := ((v.claimEngine d).dom d).counters }
      rw [hdom, gone.record]

end Sys2Proof.Machine
end

section
/-! PROOFS. The answers to anchor writes and invalidating writes (chapters 2, 6 and 7): the operations that they end. -/

namespace Sys2Proof.Machine

-- One declaration at a time: under the check's memory limit there is no room for many threads' stacks.
set_option Elab.async false

/-! ### The end of an operation among other effects -/

theorem State.requestSweep_updDom (s : State) (d o : DomId) (f : Domain → Domain) :
    (s.requestSweep o).updDom d f = (s.updDom d f).requestSweep o := by
  rw [State.requestSweep_eq, State.requestSweep_eq]
  rfl

/-- Whether a count takes its counter past the half point with the enable set (R142). -/
def State.countHalves (s : State) (d : DomId) (c : Counter) (n : Nat) : Bool :=
  (s.dom d).config.halfEnable && decide (((s.dom d).counter c).toNat < 2 ^ 31) &&
    decide (2 ^ 31 ≤ (incremented (s.dom d).config.counterMode ((s.dom d).counter c) n).toNat)

/-- A domain's record after a count (R139). -/
def Domain.counted (x : Domain) (c : Counter) (n : Nat) : Domain := { x with
  counters := x.counters.set (counterIndex c) (incremented x.config.counterMode (x.counter c) n) }

theorem State.count_halves {s : State} {d : DomId} {c : Counter} {n : Nat} (h : s.countHalves d c n = true) :
    s.count d c n = (s.setDom d ((s.dom d).counted c n)).raise (.half d) := if_pos h

theorem State.count_plain {s : State} {d : DomId} {c : Counter} {n : Nat} (h : ¬s.countHalves d c n = true) :
    s.count d c n = s.setDom d ((s.dom d).counted c n) := if_neg h

/-- A count reads and writes nothing that the end of an operation sets (R28, R139). -/
theorem State.count_endOperation (s : State) (d : DomId) (c : Counter) (n : Nat) (r : OpResult) :
    (s.count d c n).endOperation d r =
      ((s.updDom d fun x => { x with lastResult := r, anchor := .idle }).count d c n).raise (.done d) := by
  have hdom : (s.updDom d fun x => { x with lastResult := r, anchor := .idle }).dom d =
      { s.dom d with lastResult := r, anchor := .idle } := s.setDom_dom_self d _
  have hhalves : (s.updDom d fun x => { x with lastResult := r, anchor := .idle }).countHalves d c n =
      s.countHalves d c n := by
    rw [State.countHalves, hdom]
    rfl
  have hcounted : (s.setDom d ((s.dom d).counted c n)).updDom d (fun x => { x with lastResult := r, anchor := .idle }) =
      (s.updDom d fun x => { x with lastResult := r, anchor := .idle }).setDom d
        (((s.updDom d fun x => { x with lastResult := r, anchor := .idle }).dom d).counted c n) := by
    rw [hdom, State.updDom, State.updDom, State.setDom_setDom, State.setDom_setDom, State.setDom_dom_self]
    rfl
  by_cases h : s.countHalves d c n = true
  · rw [State.count_halves h, State.count_halves (hhalves.trans h), ← hcounted]
    rfl
  · rw [State.count_plain h, State.count_plain (by rw [hhalves]; exact h), ← hcounted]
    rfl

/-! ### The answers to anchor writes -/

section
variable {s : State} {id : DownId} {a : OwnAccess} {use : AnchorUse}

theorem State.anchorAnswered_okay (hp : s.pendingOwn .write id = some a) (ho : a.owner = .anchorWrite use)
    (succeed : State → DomId → State) :
    s.anchorAnswered id .okay use succeed = succeed (s.freeId .write id) a.domain := by
  rw [State.anchorAnswered, hp]
  dsimp only
  rw [if_pos ho, if_pos rfl]

theorem State.anchorAnswered_other {code : Code} (hcode : code ≠ .okay) (hp : s.pendingOwn .write id = some a)
    (ho : a.owner = .anchorWrite use) (succeed : State → DomId → State) :
    s.anchorAnswered id code use succeed = (s.freeId .write id).anchorFails a.domain use a.addr := by
  rw [State.anchorAnswered, hp]
  dsimp only
  rw [if_pos ho, if_neg hcode]

end

section
variable {s : State} {d : DomId} {e : Epoch} {r : OpResult}

theorem sentEpoch_of_sent {x : Domain} (h : x.anchor = .sent e r) : sentEpoch x = e := by
  rw [sentEpoch, h]

theorem sentResult_of_sent {x : Domain} (h : x.anchor = .sent e r) : sentResult x = r := by
  rw [sentResult, h]

/-- FORMAT's slot 1 write acknowledged (R30, R31). -/
theorem State.formatSlot1Succeeds_eq (h : (s.dom d).anchor = .sent e r) : s.formatSlot1Succeeds d =
    State.withOwn (State.requestSweep (s.setDom d
      { s.dom d with epoch := e, occupancy := 0, pressure := false, anchor := .invalidating }) d)
      { owner := .anchorWrite .formatInvalidate, domain := d, dir := .write, addr := (s.dom d).config.anchorBase, beats := 8,
        data := List.replicate 64 0#8, position := none, deadline := s.deadlineIn s.time.memTimeout } := by
  have hdom (x : Domain) : ((s.setDom d x).requestSweep d).dom d = x := by
    rw [State.dom, State.requestSweep_domains]
    exact s.setDom_dom_self d x
  rw [State.formatSlot1Succeeds, sentEpoch_of_sent h, State.updDom, openEpoch]
  dsimp only
  rw [hdom, State.requestSweep_eq]
  rfl

/-- FORMAT's invalidating write acknowledged (R31). -/
theorem State.formatSucceeds_eq (s : State) (d : DomId) : s.formatSucceeds d = State.releaseWaiters
    (State.raise (s.setDom d { s.dom d with state := .openState, lastResult := .ok, anchor := .idle }) (.done d)) d := by
  rw [State.formatSucceeds, State.endOperation, State.updDom, State.updDom, State.setDom_setDom, State.setDom_dom_self]

/-- A commit's anchor write acknowledged (R112). -/
theorem State.commitSucceeds_eq (h : (s.dom d).anchor = .sent e r) : s.commitSucceeds d =
    State.releaseWaiters (State.raise (State.count (State.requestSweep (s.setDom d { s.dom d with
      state := .openState, epoch := e, occupancy := 0, pressure := false, anchor := .idle, lastResult := .ok,
      brokenMark := false }) d) d .commits 1) (.done d)) d := by
  rw [State.commitSucceeds, sentEpoch_of_sent h, State.count_endOperation, State.requestSweep_updDom, State.updDom,
    State.updDom, State.setDom_setDom, State.setDom_dom_self]
  rfl

/-- A rollback's anchor write acknowledged (R128). -/
theorem State.rollbackSucceeds_eq (h : (s.dom d).anchor = .sent e r) : s.rollbackSucceeds d =
    State.releaseWaiters (State.raise (State.count (State.requestSweep (s.setDom d { s.dom d with
      state := .openState, epoch := e, occupancy := 0, pressure := false, anchor := .idle, lastResult := r }) d)
      d .rollbacks 1) (.done d)) d := by
  rw [State.rollbackSucceeds, sentEpoch_of_sent h, sentResult_of_sent h, State.count_endOperation,
    State.requestSweep_updDom, State.updDom, State.updDom, State.setDom_setDom, State.setDom_dom_self]
  rfl

/-- A recovery's anchor write acknowledged (R134). -/
theorem State.recoverSucceeds_eq (h : (s.dom d).anchor = .sent e r) : s.recoverSucceeds d =
    State.releaseWaiters (State.raise (State.requestSweep (s.setDom d { s.dom d with
      state := .openState, epoch := e, occupancy := 0, pressure := false, anchor := .idle, lastResult := .ok }) d)
      (.done d)) d := by
  rw [State.recoverSucceeds, sentEpoch_of_sent h, State.endOperation, State.requestSweep_updDom, State.updDom,
    State.updDom, State.setDom_setDom, State.setDom_dom_self]
  rfl

end

/-- Settles O43: the operation of each command, and then its success. -/
theorem okayAnchorWritesOpenEpochs : Obligations.OkayAnchorWritesOpenEpochs := by
  unfold Obligations.OkayAnchorWritesOpenEpochs
  refine ⟨State.releaseWaiters_eq, ?_⟩
  intro s id a e r hreset hp d x freed opened
  refine ⟨fun ho hx => ?_, fun ho => ?_, fun ho hx => ?_, fun ho hx => ?_, fun ho hx => ?_⟩
  · rw [exec, execFormatSlot1Response, whileRunning_next _ s hreset, State.anchorAnswered_okay hp ho,
      State.formatSlot1Succeeds_eq (s := s.freeId .write id) hx]
    rfl
  · rw [exec, execFormatInvalidateResponse, whileRunning_next _ s hreset, State.anchorAnswered_okay hp ho,
      State.formatSucceeds_eq]
    rfl
  · rw [exec, execCommitAnchorResponse, whileRunning_next _ s hreset, State.anchorAnswered_okay hp ho,
      State.commitSucceeds_eq (s := s.freeId .write id) hx]
    rfl
  · rw [exec, execRollbackAnchorResponse, whileRunning_next _ s hreset, State.anchorAnswered_okay hp ho,
      State.rollbackSucceeds_eq (s := s.freeId .write id) hx]
    rfl
  · rw [exec, execRecoverAnchorResponse, whileRunning_next _ s hreset, State.anchorAnswered_okay hp ho,
      State.recoverSucceeds_eq (s := s.freeId .write id) hx]
    rfl

/-! ### Failures -/

/-- An operation that has failed into OFF (R30, R31, R134). -/
theorem State.failToOff_dom (s : State) (d : DomId) (r : OpResult) : (s.failToOff d r).dom d = { s.dom d with
    state := .off, occupancy := 0, pressure := false, brokenMark := false, lastResult := r, anchor := .idle,
    counters := ((s.failToOff d r).dom d).counters } := by
  have hdom : (s.failToOff d r).dom d = { (s.enterOff d).dom d with lastResult := r, anchor := .idle } :=
    State.setDom_dom_self _ d _
  rw [hdom, s.enterOff_dom d]
  rfl

/-- A domain's record as it enters BROKEN after a failed operation (R114, R129). -/
def Domain.brokenRecord (x : Domain) : Domain := { x with state := .broken, brokenMark := false }

/-- A domain broken by its failed operation, before its held entries are re-evaluated (R35, R114, R129). -/
def State.failedBroken (s : State) (d : DomId) : State :=
  State.raise (State.setDom ((State.raise (s.setDom d (s.dom d).brokenRecord) (.broken d)).requestSweep d) d
    { (s.dom d).brokenRecord with lastResult := .failed, anchor := .idle }) (.done d)

theorem State.failToBroken_eq (s : State) (d : DomId) : s.failToBroken d =
    (s.failedBroken d).reevaluate ((s.failedBroken d).waiting d [.drain, .roll, .space]) := by
  have hdom : ((State.raise (s.setDom d (s.dom d).brokenRecord) (.broken d)).requestSweep d).dom d =
      (s.dom d).brokenRecord := by
    rw [State.dom, State.requestSweep_domains]
    exact s.setDom_dom_self d _
  have hbroken : (s.updDom d fun x => { x with brokenMark := false }).breakDomain d =
      (State.raise (s.setDom d (s.dom d).brokenRecord) (.broken d)).requestSweep d := by
    rw [State.breakDomain, State.updDom, State.updDom, State.setDom_setDom, State.setDom_dom_self]
    rfl
  have hended : State.endOperation ((State.raise (s.setDom d (s.dom d).brokenRecord) (.broken d)).requestSweep d) d .failed =
      s.failedBroken d := by
    rw [State.endOperation, State.updDom, hdom]
    rfl
  rw [State.failToBroken, hbroken, hended, State.releaseWaiters_eq]

theorem State.failedBroken_dom (s : State) (d : DomId) : (s.failedBroken d).dom d =
    { (s.dom d).brokenRecord with lastResult := .failed, anchor := .idle } := State.setDom_dom_self _ d _

/-- Settles O44: the operation of each command, and then where it fails to. -/
theorem failedAnchorWritesEndOperations : Obligations.FailedAnchorWritesEndOperations := by
  unfold Obligations.FailedAnchorWritesEndOperations
  refine ⟨?_, ?_, ?_⟩
  · intro s id code a hreset hcode hp d failed
    refine ⟨fun ho => ?_, fun ho => ?_, fun ho => ?_, fun ho => ?_, fun ho => ?_⟩
    · rw [exec, execFormatSlot1Response, whileRunning_next _ s hreset, State.anchorAnswered_other hcode hp ho]
      rfl
    · rw [exec, execFormatInvalidateResponse, whileRunning_next _ s hreset, State.anchorAnswered_other hcode hp ho]
      rfl
    · rw [exec, execRecoverAnchorResponse, whileRunning_next _ s hreset, State.anchorAnswered_other hcode hp ho]
      rfl
    · rw [exec, execCommitAnchorResponse, whileRunning_next _ s hreset, State.anchorAnswered_other hcode hp ho]
      rfl
    · rw [exec, execRollbackAnchorResponse, whileRunning_next _ s hreset, State.anchorAnswered_other hcode hp ho]
      rfl
  · intro s d r t
    exact ⟨rfl, s.failToOff_dom d r, State.raise_flag _ _, s.enterOff_hold d⟩
  · intro s d t x
    have hflag : (State.raise (s.setDom d x) (.broken d)).flag (.broken d) = true := State.raise_flag _ _
    refine ⟨⟨_, rfl, s.failToBroken_eq d⟩, ?_, ?_, ?_, ?_⟩
    · show (s.failToBroken d).dom d = { x with
        lastResult := .failed, anchor := .idle, counters := ((s.failToBroken d).dom d).counters }
      rw [s.failToBroken_eq d]
      exact State.reevaluate_dom (s.failedBroken_dom d) (fun hno => nomatch hno) _
    · show (s.failToBroken d).flag _ = true
      rw [s.failToBroken_eq d]
      exact State.reevaluate_flag _ (State.raise_flag _ _)
    · show (s.failToBroken d).flag _ = true
      rw [s.failToBroken_eq d]
      refine State.reevaluate_flag _ (State.raise_flagKept _ _ _ ?_)
      show State.flag (State.requestSweep (State.raise (s.setDom d x) (.broken d)) d) _ = true
      rw [State.requestSweep_eq]
      exact hflag
    · show (s.failToBroken d).sweepPending d = true
      rw [s.failToBroken_eq d]
      exact State.reevaluate_pending _ (State.requestSweep_pending (State.raise (s.setDom d x) (.broken d)) d)

end Sys2Proof.Machine
end

section
/-! PROOFS. The answers to the capture engine's accesses (chapter 3), and the ticks and hold timeouts (sections 5.6 and 9.5). -/

namespace Sys2Proof.Machine

-- One declaration at a time: under the check's memory limit there is no room for many threads' stacks.
set_option Elab.async false

/-! ### Old-line reads answered -/

theorem allOkay_iff (beats : List Beat) : allOkay beats = true ↔ ∀ b ∈ beats, b.code = .okay := by
  simp only [allOkay, List.all_eq_true, decide_eq_true_eq]

theorem not_allOkay_iff (beats : List Beat) : ¬allOkay beats = true ↔ ∃ b ∈ beats, b.code ≠ .okay := by
  rw [allOkay_iff]
  push Not
  rfl

theorem State.setSlot_setSlot (s : State) (k : SlotId) (x y : Slot) : (s.setSlot k x).setSlot k y = s.setSlot k y := by
  simp only [State.setSlot, Vector.set_set]

/-- A slot filled with the old contents of its line (R54, R157). -/
def State.recordingSlot (s : State) (k : SlotId) (line : List Byte) : Slot := { s.slot k with
  state := .writeRecord, buffer := line, writeHanded := false, deadline := s.deadlineIn s.time.memTimeout }

section
variable {s : State} {k : SlotId} {line : List Byte}

theorem State.oldLineRead_ready : (s.setSlot k (s.recordingSlot k line)).recordWriteReady k = true ↔
    s.lateRecordTo (recordAddr (s.dom (s.slot k).domain).config (s.slot k).position) = false := by
  rw [State.recordWriteReady_iff, State.setSlot_slot_self]
  exact ⟨fun ⟨_, _, h⟩ => h, fun h => ⟨rfl, rfl, h⟩⟩

/-- An old line read whose record write may go (R54, R57). -/
theorem State.oldLineRead_goes
    (h : s.lateRecordTo (recordAddr (s.dom (s.slot k).domain).config (s.slot k).position) = false) :
    s.oldLineRead k line = (s.setSlot k { s.recordingSlot k line with writeHanded := true }).withOwn
      (recordWrite k (s.recordingSlot k line) (s.dom (s.slot k).domain).config) := by
  show (s.setSlot k (s.recordingSlot k line)).handRecordWrite k = _
  rw [State.handRecordWrite_goes (State.oldLineRead_ready.2 h), State.setSlot_slot_self, State.setSlot_setSlot]
  rfl

/-- An old line read whose record write must wait (R57). -/
theorem State.oldLineRead_waits
    (h : s.lateRecordTo (recordAddr (s.dom (s.slot k).domain).config (s.slot k).position) = true) :
    s.oldLineRead k line = s.setSlot k (s.recordingSlot k line) :=
  State.handRecordWrite_waits fun hc => absurd (h.symm.trans (State.oldLineRead_ready.1 hc)) (by decide)

end

section
variable {s : State} {id : DownId} {a : OwnAccess} {k : SlotId}

theorem exec_oldLineReadResponse (hreset : s.inReset = false) (hp : s.pendingOwn .read id = some a)
    (ho : a.owner = .captureRead k) (beats : Vector Beat 8) :
    exec (.oldLineReadResponse id beats) s = .next (s.oldLineAnswered k id beats.toList) := by
  rw [exec, execOldLineReadResponse, whileRunning_next _ s hreset, hp]
  dsimp only
  rw [ho]

theorem exec_recordWriteResponse (hreset : s.inReset = false) (hp : s.pendingOwn .write id = some a)
    (ho : a.owner = .recordWrite k) (code : Code) :
    exec (.recordWriteResponse id code) s = .next (s.recordAnswered k id code) := by
  rw [exec, execRecordWriteResponse, whileRunning_next _ s hreset, hp]
  dsimp only
  rw [ho]

end

/-- Settles O48: by the record write's condition. -/
theorem oldLineReadAnswered : Obligations.OldLineReadAnswered := by
  unfold Obligations.OldLineReadAnswered
  intro s id beats a k hreset hp ho hst hokay x freed deadline filled addr
  have answered : exec (.oldLineReadResponse id beats) s =
      .next (freed.oldLineRead k (beats.toList.flatMap fun b => laneBytes b.data)) := by
    rw [exec_oldLineReadResponse hreset hp ho, State.oldLineAnswered, if_pos hst, if_pos ((allOkay_iff _).2 hokay)]
    rfl
  refine ⟨fun hlate => ?_, fun hlate => ?_⟩
  · rw [answered, State.oldLineRead_waits (s := freed) hlate]
    rfl
  · rw [answered, State.oldLineRead_goes (s := freed) hlate]
    rfl

/-! ### Captures that end -/

theorem State.count_slots (s : State) (d : DomId) (c : Counter) (n : Nat) : (s.count d c n).slots = s.slots := by
  obtain ⟨_, _, h⟩ := s.count_eq d c n
  rw [h]

theorem State.filterInsert_slots (s : State) (d : DomId) (l : Line) (p : Bool) : (s.filterInsert d l p).slots = s.slots := by
  obtain ⟨_, _, _, h⟩ := s.filterInsert_eq d l p
  rw [h]

theorem State.filterInsert_hold (s : State) (d : DomId) (l : Line) (p : Bool) : (s.filterInsert d l p).hold = s.hold := by
  obtain ⟨_, _, _, h⟩ := s.filterInsert_eq d l p
  rw [h]

theorem addMissing_nil (todo : List Nat) : addMissing todo [] = todo := List.append_nil todo

theorem takesInsertion_iff (x : Domain) :
    takesInsertion x = true ↔ x.state = .openState ∨ (x.state = .draining ∧ x.brokenMark = false) := by
  rw [takesInsertion]
  cases x.state <;> simp

/-- A count leaves a domain's state and broken mark, so it leaves what its filter takes (R57). -/
theorem State.count_takesInsertion (s : State) (d o : DomId) (c : Counter) (n : Nat) :
    takesInsertion ((s.count o c n).dom d) = takesInsertion (s.dom d) := by
  obtain ⟨cs, flags, h⟩ := s.count_eq o c n
  rw [h]
  show takesInsertion ((s.setDom o { s.dom o with counters := cs }).dom d) = _
  rw [State.setDom_dom]
  split
  · next hd =>
    rw [hd]
    rfl
  · rfl

/-- The end of a capture: the slot FREE, one slot fewer in use, and the waiters of R58. -/
theorem State.finishCapture_eq (s : State) (k : SlotId) (more : List Nat) : s.finishCapture k more =
    State.endDrainIfDone ((s.freeSlot k).reevaluate (addMissing ((s.freeSlot k).freeingSet (s.slot k).line) more))
      (s.slot k).domain := rfl

/-- Settles O49: the record inserted if the domain takes it, and the end of the capture. -/
theorem recordBecomesDurable : Obligations.RecordBecomesDurable := by
  unfold Obligations.RecordBecomesDurable
  intro s id a k hreset hp ho hst x d counted journaling inserted hinserts hnot y freed waiters
  have hinserted : inserted =
      if takesInsertion (counted.dom d) then counted.filterInsert d x.line (epochParity x.epoch) else counted := by
    have htakes : takesInsertion (counted.dom d) = true ↔ journaling := by
      rw [show takesInsertion (counted.dom d) = takesInsertion (s.dom d) from State.count_takesInsertion _ _ _ _ _,
        takesInsertion_iff]
    by_cases hj : journaling
    · rw [if_pos (htakes.2 hj)]
      exact hinserts hj
    · rw [if_neg fun hc => hj (htakes.1 hc)]
      exact hnot hj
  have hcounted : counted.slots = s.slots ∧ counted.hold = s.hold := ⟨State.count_slots _ _ _ _, State.count_hold _ _ _ _⟩
  have hsame : inserted.slots = s.slots ∧ inserted.hold = s.hold := by
    rw [hinserted]
    split
    · rw [State.filterInsert_slots, State.filterInsert_hold]
      exact hcounted
    · exact hcounted
  have hslot : inserted.slot k = x := by
    rw [State.slot, hsame.1]
    rfl
  have answered : exec (.recordWriteResponse id .okay) s = .next (inserted.finishCapture k []) := by
    rw [exec_recordWriteResponse hreset hp ho, State.recordAnswered, if_pos hst, if_pos rfl, hinserted]
    rfl
  have hfreed : inserted.freeSlot k = freed := by
    rw [State.freeSlot, hslot]
    show State.setDom (inserted.setSlot k _) _ _ = _
    rw [State.setDom, State.setSlot, hsame.1]
    rfl
  have hwaiters : freed.freeingSet x.line = waiters := by
    show (inserted.hold.filter _).map _ = _
    rw [hsame.2]
  rw [answered, State.finishCapture_eq, hfreed, hslot, hwaiters, addMissing_nil]

/-! ### Captures that fail -/

section
variable {s : State} {d : DomId}

/-- A capture that fails in OPEN breaks the domain (R59, R60). -/
theorem State.captureBreaks_open (h : (s.dom d).state = .openState) :
    s.captureBreaks d = State.requestSweep (State.raise (s.setDom d { s.dom d with state := .broken }) (.broken d)) d ∧
      s.failureSet d = s.breakSet d := by
  rw [State.captureBreaks, State.failureSet, h]
  exact ⟨rfl, rfl⟩

/-- A capture that fails in a drain marks the domain once (R38, R61). -/
theorem State.captureBreaks_draining (h : (s.dom d).state = .draining) (hmark : (s.dom d).brokenMark = false) :
    s.captureBreaks d = State.requestSweep (State.raise (s.setDom d { s.dom d with brokenMark := true }) (.broken d)) d ∧
      s.failureSet d = s.carriedEntries d := by
  rw [State.captureBreaks, State.failureSet, h, hmark]
  exact ⟨rfl, rfl⟩

/-- A capture that fails in a marked drain or in BROKEN breaks nothing more (R38, R59). -/
theorem State.captureBreaks_broken
    (h : ((s.dom d).state = .draining ∧ (s.dom d).brokenMark = true) ∨ (s.dom d).state = .broken) :
    s.captureBreaks d = s ∧ s.failureSet d = [] := by
  rw [State.captureBreaks, State.failureSet]
  rcases h with ⟨hst, hmark⟩ | hst
  · rw [hst, hmark]
    exact ⟨rfl, rfl⟩
  · rw [hst]
    exact ⟨rfl, rfl⟩

end

theorem State.enqueueFault_slots (s : State) (r : FaultRecord) : (s.enqueueFault r).slots = s.slots := by
  obtain ⟨_, _, _, h⟩ := s.enqueueFault_eq r
  rw [h]

/-- The failure of a capture, from the faulted state on (R55, R59). -/
theorem State.captureFails_eq (s : State) (k : SlotId) (kind : FaultKind) {t u : State} {more : List Nat}
    (hfault : t = s.enqueueFault
      { kind := kind, stamp := s.time.tick, domain := some (s.slot k).domain, initiator := none,
        address := some ((s.slot k).line ++ 0#6), position := some (s.slot k).position, code := none })
    (h : t.captureBreaks (s.slot k).domain = u ∧ t.failureSet (s.slot k).domain = more) :
    s.captureFails k kind = State.endDrainIfDone ((u.freeSlot k).reevaluate
      (addMissing ((u.freeSlot k).freeingSet (s.slot k).line) more)) (s.slot k).domain := by
  obtain ⟨hbreaks, hmore⟩ := h
  have hslot : u.slot k = s.slot k := by
    rw [← hbreaks, State.captureBreaks_slot, hfault, State.slot, State.enqueueFault_slots]
    rfl
  have fails : s.captureFails k kind = State.finishCapture (t.captureBreaks (s.slot k).domain) k
      (t.failureSet (s.slot k).domain) := by
    rw [hfault]
    rfl
  rw [fails, hbreaks, hmore, State.finishCapture_eq, hslot]

/-- Settles O50: the two answers, and then the failure by the domain's state. -/
theorem captureFailuresBreak : Obligations.CaptureFailuresBreak := by
  unfold Obligations.CaptureFailuresBreak
  refine ⟨?_, ?_⟩
  · intro s id a k hreset freed
    refine ⟨fun beats hp ho hst hbad => ?_, fun code hp ho hst hcode => ?_⟩
    · rw [exec_oldLineReadResponse hreset hp ho, State.oldLineAnswered, if_pos hst, if_neg ((not_allOkay_iff _).2 hbad)]
      rfl
    · rw [exec_recordWriteResponse hreset hp ho, State.recordAnswered, if_pos hst, if_neg hcode]
      rfl
  · intro s k kind x d faulted ends arrivals waits
    have hdom : faulted.dom d = s.dom d := State.enqueueFault_dom _ _ _
    have hhold : faulted.hold = s.hold := State.enqueueFault_hold _ _
    refine ⟨fun hst => ?_, fun hst hmark => ?_, fun h => ?_⟩
    · obtain ⟨hbreaks, hset⟩ := State.captureBreaks_open (s := faulted) (d := d) (by rw [hdom, hst])
      rw [hdom] at hbreaks
      refine s.captureFails_eq k kind (t := faulted) rfl ⟨hbreaks, hset.trans ?_⟩
      rw [State.breakSet, State.arrivals, hhold]
      rfl
    · obtain ⟨hbreaks, hset⟩ := State.captureBreaks_draining (s := faulted) (d := d) (by rw [hdom, hst]) (by rw [hdom, hmark])
      rw [hdom] at hbreaks
      refine s.captureFails_eq k kind (t := faulted) rfl ⟨hbreaks, hset.trans ?_⟩
      rw [State.carriedEntries, State.arrivals, hhold]
    · exact s.captureFails_eq k kind (t := faulted) rfl (State.captureBreaks_broken (by rw [hdom]; exact h))

/-! ### Ticks and hold timeouts -/

/-- The one entry of an arrival sequence leaves the queue (R85, R96). -/
theorem dropped_between {before after : List Entry} {e : Entry}
    (h : (before ++ e :: after).Pairwise (fun x y => x.arrival < y.arrival)) :
    (before ++ e :: after).filter (fun x => decide (x.arrival ≠ e.arrival)) = before ++ after := by
  obtain ⟨-, hrest, hcross⟩ := List.pairwise_append.1 h
  obtain ⟨hafter, -⟩ := List.pairwise_cons.1 hrest
  have keeps (x : Entry) (hne : x.arrival ≠ e.arrival) : decide (x.arrival ≠ e.arrival) = true := decide_eq_true hne
  rw [List.filter_append, List.filter_cons_of_neg (by simp),
    List.filter_eq_self.2 fun x hx => keeps x (Nat.ne_of_lt (hcross x hx e List.mem_cons_self)),
    List.filter_eq_self.2 fun x hx => keeps x (Nat.ne_of_gt (hafter x hx))]

theorem State.due_iff (s : State) (deadline : Option Ticks) : s.due deadline = true ↔ deadline = some s.time.tick := by
  rw [State.due, decide_eq_true_eq]

/-- The fault of a hold timeout (R96, R149). -/
def holdTimeoutFault (stamp : Ticks) (e : Entry) : FaultRecord :=
  { kind := .holdTimeout, stamp := stamp, domain := e.domain, initiator := some e.req.header.id,
    address := some e.req.header.addr, position := none, code := none }

section
variable {s : State} {e : Entry}

theorem State.waitersBehind_single (u : State) (e : Entry) : u.waitersBehind [e] =
    (u.hold.filter fun x => decide (x.wait = .order) &&
      (decide (e.req.header.id = x.req.header.id) && decide (e.req.kind = x.req.kind))).map (·.arrival) := by
  simp only [State.waitersBehind, State.arrivals, List.any_cons, List.any_nil, Bool.or_false]

theorem State.timeOutEntry_without {u : State} (hd : e.domain = none)
    (hu : u = (s.refuseEntry e).enqueueFault (holdTimeoutFault s.time.tick e)) :
    s.timeOutEntry e = u.reevaluate (u.waitersBehind [e]) := by
  rw [hu, State.timeOutEntry, holdTimeoutFault, hd]
  rfl

theorem State.timeOutEntry_domain {u : State} {d : DomId} (hd : e.domain = some d)
    (hu : u = ((s.refuseEntry e).count d .holdTimeouts 1).enqueueFault (holdTimeoutFault s.time.tick e)) :
    s.timeOutEntry e = u.reevaluate (u.waitersBehind [e]) := by
  have htime : ((s.refuseEntry e).count d .holdTimeouts 1).time.tick = s.time.tick :=
    congrArg Timebase.tick (State.count_time _ _ _ _)
  rw [hu, State.timeOutEntry, holdTimeoutFault, hd]
  dsimp only
  rw [State.fault, htime]

end

/-- Settles O34: a tick by the timeouts left, and the oldest entry that is due. -/
theorem ticksAndHoldTimeouts : Obligations.TicksAndHoldTimeouts := by
  unfold Obligations.TicksAndHoldTimeouts
  intro s hreset
  refine ⟨fun h => ?_, fun h => ?_, fun hnone => ?_, ?_⟩
  · rw [exec, execTick, whileRunning_next _ s hreset, if_pos h]
  · rw [exec, execTick, whileRunning_next _ s hreset, if_neg (by rw [h]; decide)]
    rfl
  · have hfind : s.hold.find? (fun e => s.due e.deadline) = none :=
      List.find?_eq_none.2 fun e he hdue => hnone e he ((s.due_iff _).1 hdue)
    rw [exec, execHoldTimeout, whileRunning_next _ s hreset, hfind]
  · intro before e after hsplit hbefore he hordered gone record behind
    have hfind : s.hold.find? (fun e => s.due e.deadline) = some e := by
      refine List.find?_eq_some_iff_append.2 ⟨(s.due_iff _).2 he, before, after, hsplit, fun x hx => ?_⟩
      rw [Bool.not_eq_true', Bool.eq_false_iff]
      exact fun hdue => hbefore x hx ((s.due_iff _).1 hdue)
    have runs : exec .holdTimeout s = .next (s.timeOutEntry e) := by
      rw [exec, execHoldTimeout, whileRunning_next _ s hreset, hfind]
    have hgone : s.refuseEntry e = gone := by
      have hdrop := dropped_between (hsplit ▸ hordered.1)
      rw [← hsplit] at hdrop
      rw [State.refuseEntry, State.dropEntry, hdrop]
      rfl
    have hbehind (u : State) : u.waitersBehind [e] = behind u := u.waitersBehind_single e
    refine ⟨fun hd => ⟨_, rfl, ?_⟩, fun d hd => ⟨_, rfl, ?_⟩⟩
    · rw [runs, State.timeOutEntry_without hd rfl, hgone, hbehind]
      rfl
    · rw [runs, State.timeOutEntry_domain hd rfl, hgone, hbehind]
      rfl

end Sys2Proof.Machine
end

section
/-! PROOFS. The replay engine (chapter 7): how a walk goes on and ends, and what the answers to its accesses do. -/

namespace Sys2Proof.Machine

-- One declaration at a time: under the check's memory limit there is no room for many threads' stacks.
set_option Elab.async false

/-! ### How a walk goes on -/

theorem walkFinished_iff (w : Walk) : walkFinished w = true ↔
    w.phase = .walk ∧ w.cursor = none ∧ w.buffer = none ∧ w.readOut = none ∧ w.writeOut = none := by
  simp only [walkFinished, Bool.and_eq_true, decide_eq_true_eq, and_assoc]

section
variable {s t : State} {w v : Walk}

/-- A walk that goes on with something left (R121, R123). -/
theorem State.advanceWalk_goes (h : s.handReplayWrite.issueRecordRead = t) (hv : t.replay.walk = some v)
    (hleft : ¬walkFinished v = true) : s.advanceWalk = t := by
  rw [State.advanceWalk, h, hv]
  exact if_neg hleft

/-- A walk with nothing left ends (R125). -/
theorem State.advanceWalk_ends (h : s.handReplayWrite.issueRecordRead = t) (hv : t.replay.walk = some v)
    (hleft : walkFinished v = true) : s.advanceWalk = t.endWalk v (walkResult v) := by
  rw [State.advanceWalk, h, hv]
  exact if_pos hleft

theorem State.handReplayWrite_empty (hw : s.replay.walk = some w) (hb : w.buffer = none) : s.handReplayWrite = s :=
  State.handReplayWrite_waits fun w' b hw' hb' _ => by
    obtain rfl : w = w' := Option.some.inj (hw.symm.trans hw')
    rw [hb] at hb'
    cases hb'

theorem State.handReplayWrite_held {b : Buffered} (hw : s.replay.walk = some w) (hb : w.buffer = some b)
    (h : ¬s.ReplayWriteGoes w b) : s.handReplayWrite = s :=
  State.handReplayWrite_waits fun w' b' hw' hb' => by
    obtain rfl : w = w' := Option.some.inj (hw.symm.trans hw')
    obtain rfl : b = b' := Option.some.inj (hb.symm.trans hb')
    exact h

theorem State.issueRecordRead_idle (hw : s.replay.walk = some w) (h : ∀ k, ¬w.Reads k) : s.issueRecordRead = s :=
  State.issueRecordRead_waits fun w' k hw' => by
    obtain rfl : w = w' := Option.some.inj (hw.symm.trans hw')
    exact h k

/-- The end of a ROLLBACK's walk (R128, R129). -/
theorem State.endWalk_rollback (hk : w.kind = .rollback) (r : OpResult) :
    s.endWalk w r = ((s.setWalk none).rollbackWalkEnds w.domain r).nextWalk := by
  rw [State.endWalk, hk]

/-- The end of a RECOVER's walk (R134). -/
theorem State.endWalk_recover (hk : w.kind = .recover) (r : OpResult) :
    s.endWalk w r = ((s.setWalk none).recoverWalkEnds w.domain w.epoch r).nextWalk := by
  rw [State.endWalk, hk]

theorem walkResult_failed (h : w.failures ≠ 0) : walkResult w = .failed := if_pos h

theorem walkResult_partial (h : w.failures = 0) (hs : w.skips ≠ 0) : walkResult w = .partialResult :=
  (if_neg (not_not.2 h)).trans (if_pos hs)

theorem walkResult_ok (h : w.failures = 0) (hs : w.skips = 0) : walkResult w = .ok :=
  (if_neg (not_not.2 h)).trans (if_neg (not_not.2 hs))

theorem State.recoverWalkEnds_done {d : DomId} {e : Epoch} {r : OpResult} (hr : r = .ok ∨ r = .partialResult) :
    s.recoverWalkEnds d e r =
      if e = BitVec.allOnes 32 then s.failToOff d .failed else s.prepareAnchor d (e + 1#32) .ok := by
  rcases hr with rfl | rfl <;> rfl

theorem State.rollbackWalkEnds_done {d : DomId} {r : OpResult} (hr : r = .ok ∨ r = .partialResult) :
    s.rollbackWalkEnds d r = s.prepareAnchor d ((s.dom d).epoch + 1#32) r := by
  rcases hr with rfl | rfl <;> rfl

theorem walkResult_done (h : w.failures = 0) : walkResult w = .ok ∨ walkResult w = .partialResult := by
  by_cases hs : w.skips = 0
  · exact .inl (walkResult_ok h hs)
  · exact .inr (walkResult_partial h hs)

theorem State.nextWalk_cons {o : DomId} {rest : List DomId} (h : s.replay.waiting = o :: rest) :
    s.nextWalk = State.startWalk { s with replay := { s.replay with waiting := rest } } o := by
  rw [State.nextWalk, h]

theorem State.nextWalk_nil (h : s.replay.waiting = []) : s.nextWalk = s := by
  rw [State.nextWalk, h]

end

/-- Settles O47: by the buffer, the reads and what is left. -/
theorem walksAdvanceAndEnd : Obligations.WalksAdvanceAndEnd := by
  unfold Obligations.WalksAdvanceAndEnd
  intro s w hw d done deadline walks below read
  refine ⟨fun hphase hb => ?_, ?_, fun hk r hr => ?_, fun o rest => State.nextWalk_cons, State.nextWalk_nil⟩
  · have empty := State.handReplayWrite_empty hw hb
    refine ⟨fun k hread hc => ?_, fun hwaits => ?_, fun hread hc hwrite => ?_⟩
    · refine State.advanceWalk_goes (t := State.withOwn (walks { w with readOut := some k, cursor := below k }) (read k))
        (v := { w with readOut := some k, cursor := below k }) ?_ rfl fun hf => ?_
      · rw [empty, State.issueRecordRead_goes hw ⟨hphase, hread, hb, hc⟩]
        rfl
      · obtain ⟨-, -, -, hno, -⟩ := (walkFinished_iff _).1 hf
        cases hno
    · refine State.advanceWalk_goes (v := w) ?_ hw fun hf => ?_
      · rw [empty]
        refine State.issueRecordRead_idle hw fun k ⟨_, hread, _, hc⟩ => ?_
        rcases hwaits with h | ⟨-, h⟩
        · exact h hread
        · rw [h] at hc
          cases hc
      · obtain ⟨-, -, -, hread, hwrite⟩ := (walkFinished_iff _).1 hf
        rcases hwaits with h | ⟨h, -⟩
        · exact h hread
        · exact h hwrite
    · have ends : s.advanceWalk = s.endWalk w (walkResult w) := by
        refine State.advanceWalk_ends (v := w) ?_ hw ((walkFinished_iff _).2 ⟨hphase, hc, hb, hread, hwrite⟩)
        rw [empty]
        refine State.issueRecordRead_idle hw fun k ⟨_, _, _, hk⟩ => ?_
        rw [hc] at hk
        cases hk
      refine ⟨fun hf hk => ?_, fun hf hk => ?_, fun hf hk r hpartial hok => ?_, fun hf hk he => ?_, fun hf hk he => ?_⟩
      · rw [ends, walkResult_failed hf, State.endWalk_rollback hk]
        rfl
      · rw [ends, walkResult_failed hf, State.endWalk_recover hk]
        rfl
      · have hr : walkResult w = r := by
          by_cases hs : w.skips = 0
          · rw [walkResult_ok hf hs, hok hs]
          · rw [walkResult_partial hf hs, hpartial hs]
        rw [ends, State.endWalk_rollback hk, State.rollbackWalkEnds_done (walkResult_done hf), hr]
        rfl
      · rw [ends, State.endWalk_recover hk, State.recoverWalkEnds_done (walkResult_done hf), if_neg he]
        rfl
      · rw [ends, State.endWalk_recover hk, State.recoverWalkEnds_done (walkResult_done hf), if_pos he]
        rfl
  · intro b hphase hb goes v write
    have written (hgoes : goes) : s.handReplayWrite = State.withOwn (walks v) write := State.handReplayWrite_goes hw hb hgoes
    refine ⟨fun hno => ?_, fun hgoes hno => ?_, fun hgoes k hread hc => ?_⟩
    · refine State.advanceWalk_goes (v := w) ?_ hw fun hf => ?_
      · rw [State.handReplayWrite_held hw hb hno]
        refine State.issueRecordRead_idle hw fun k ⟨_, _, hempty, _⟩ => ?_
        rw [hb] at hempty
        cases hempty
      · obtain ⟨-, -, hempty, -⟩ := (walkFinished_iff _).1 hf
        rw [hb] at hempty
        cases hempty
    · refine State.advanceWalk_goes (v := v) ?_ rfl fun hf => ?_
      · rw [written hgoes]
        refine State.issueRecordRead_idle (w := v) rfl fun k ⟨_, hread, _, hc⟩ => ?_
        rcases hno with h | h
        · exact h hread
        · exact nomatch h.symm.trans hc
      · obtain ⟨-, -, -, -, hno⟩ := (walkFinished_iff _).1 hf
        cases hno
    · refine State.advanceWalk_goes (v := { v with readOut := some k, cursor := below k }) ?_ rfl fun hf => ?_
      · rw [written hgoes, State.issueRecordRead_goes (s := State.withOwn (walks v) write) (w := v) (k := k) rfl
          ⟨hphase, hread, rfl, hc⟩]
        rfl
      · obtain ⟨-, -, -, hno, -⟩ := (walkFinished_iff _).1 hf
        cases hno
  · rw [State.endWalk_recover hk]
    rcases hr with rfl | rfl <;> rfl

/-! ### The accesses of the replay engine answered -/

section
variable {s : State} {id : DownId} {a : OwnAccess} {w : Walk}

theorem exec_anchorReadResponse (hreset : s.inReset = false) (hp : s.pendingOwn .read id = some a) {slot1 : Bool}
    (ho : a.owner = .anchorRead slot1) (hw : s.replay.walk = some w) (beats : Vector Beat 8) :
    exec (.anchorReadResponse id beats) s =
      .next ((s.freeId .read id).anchorReadEnds w (anchorOutcome beats.toList)) := by
  rw [exec, execAnchorReadResponse, whileRunning_next _ s hreset, hp, hw]
  dsimp only
  rw [ho]

theorem exec_recordReadResponse (hreset : s.inReset = false) (hp : s.pendingOwn .read id = some a)
    (ho : a.owner = .recordRead) (hw : s.replay.walk = some w) {position : Nat} (ha : a.position = some position)
    (beats : Vector Beat 16) : exec (.recordReadResponse id beats) s =
      .next ((s.freeId .read id).recordReadAnswered w position beats.toList) := by
  rw [exec, execRecordReadResponse, whileRunning_next _ s hreset, hp, hw]
  dsimp only
  rw [if_pos ho, ha]
  rfl

theorem exec_replayWriteResponse (hreset : s.inReset = false) (hp : s.pendingOwn .write id = some a)
    (ho : a.owner = .replayWrite) (hw : s.replay.walk = some w) (code : Code) :
    exec (.replayWriteResponse id code) s = .next ((s.freeId .write id).replayWriteAnswered w a code) := by
  rw [exec, execReplayWriteResponse, whileRunning_next _ s hreset, hp, hw]
  dsimp only
  rw [if_pos ho]

end

/-- A record is replayable if it is valid and its line meets no area that is in use (R122). -/
theorem State.replayable_iff (s : State) (w : Walk) (record : List Byte) : s.replayable w record = true ↔
    recordValid record w.domain w.epoch = true ∧ ∀ o : DomId, o = w.domain ∨ (s.dom o).state ≠ .off →
      rangesMeet ((recordLine record).toNat * 64, (recordLine record).toNat * 64 + 64) (journalArea (s.dom o).config) =
        false ∧
      rangesMeet ((recordLine record).toNat * 64, (recordLine record).toNat * 64 + 64) (anchorSpan (s.dom o).config) =
        false := by
  simp only [State.replayable, lineAddr_toNat, Bool.and_eq_true, List.all_eq_true, mem_allDoms, true_imp_iff,
    Bool.or_eq_true, Bool.not_eq_true', Bool.or_eq_false_iff, decide_eq_false_iff_not, ← not_or, ← imp_iff_not_or]
  exact Iff.rfl

theorem not_rangesMeet_iff (a b : Nat × Nat) : rangesMeet a b = false ↔ ¬(a.1 < b.2 ∧ b.1 < a.2) := by
  rw [rangesMeet, ← Bool.not_eq_true, Bool.and_eq_true, decide_eq_true_eq, decide_eq_true_eq]

section
variable {s : State} {w : Walk} {position : Nat} {record : List Byte}

theorem State.judgeRecord_replays (h : s.replayable w record = true) : s.judgeRecord w position record =
    s.setWalk (some { w with buffer := some {
      position := position, record := record, deadline := s.deadlineIn s.time.memTimeout } }) := if_pos h

theorem State.judgeRecord_skips (h : s.replayable w record = false) (hk : w.kind = .rollback) :
    s.judgeRecord w position record =
      ((s.setWalk (some { w with skips := w.skips + 1 })).count w.domain .skipped 1).enqueueFault
        { kind := .replayBadRecord, stamp := s.time.tick, domain := some w.domain, initiator := none, address := none,
          position := some position, code := none } := by
  have htime (v : Walk) : ((s.setWalk (some v)).count w.domain .skipped 1).time.tick = s.time.tick :=
    congrArg Timebase.tick (State.count_time _ _ _ _)
  rw [State.judgeRecord, if_neg (by rw [h]; decide), State.passOver, hk]
  dsimp only
  rw [State.fault, htime]

theorem State.judgeRecord_silent (h : s.replayable w record = false) (hk : w.kind = .recover) :
    s.judgeRecord w position record = s := by
  rw [State.judgeRecord, if_neg (by rw [h]; decide), State.passOver, hk]

end

/-- Settles O46: the judgement of a record, and then each answer. -/
theorem replayResponsesJudged : Obligations.ReplayResponsesJudged := by
  unfold Obligations.ReplayResponsesJudged
  refine ⟨fun s w record => ?_, ?_⟩
  · simp only [s.replayable_iff, not_rangesMeet_iff]
    exact Iff.rfl
  · intro s id a w position hreset hw ha d freed walks record
    refine ⟨fun beats hp ho => ?_, fun code hp ho => ?_⟩
    · intro bytes ended run
      have runs : run = .next ((s.freeId .read id).recordReadAnswered w position beats.toList) :=
        exec_recordReadResponse hreset hp ho hw ha beats
      refine ⟨fun hokay => ?_, fun hbad => ?_⟩
      · have judged : run = .next (State.advanceWalk (State.judgeRecord (walks (freed .read) ended) ended position bytes)) := by
          rw [runs, State.recordReadAnswered, if_pos ((allOkay_iff _).2 hokay)]
          rfl
        refine ⟨fun h => ?_, fun h hk => ?_, fun h hk => ?_⟩
        · rw [judged, State.judgeRecord_replays (s := walks (freed .read) ended) (w := ended) h]
          rfl
        · rw [judged, State.judgeRecord_skips (s := walks (freed .read) ended) (w := ended) h hk]
          rfl
        · rw [judged, State.judgeRecord_silent (s := walks (freed .read) ended) (w := ended) h hk]
      · rw [runs, State.recordReadAnswered, if_neg ((not_allOkay_iff _).2 hbad)]
        rfl
    · intro ended
      have runs : exec (.replayWriteResponse id code) s = .next ((s.freeId .write id).replayWriteAnswered w a code) :=
        exec_replayWriteResponse hreset hp ho hw code
      refine ⟨fun hcode => ?_, fun hcode => ?_⟩
      · rw [runs, State.replayWriteAnswered, if_pos hcode]
        rfl
      · rw [runs, State.replayWriteAnswered, if_neg hcode, ha]
        rfl

/-! ### The anchor reads of a RECOVER -/

section
variable {d : DomId} {capacity : Nat} {line0 line1 : List Byte}

theorem selectAnchor_none (h0 : ¬anchorValid line0 d = true) (h1 : ¬anchorValid line1 d = true) :
    selectAnchor d capacity line0 line1 = .error .noAnchor := by
  rw [selectAnchor, if_neg h0, if_neg h1]

/-- The restore point is the line in slot 0 (R132). -/
theorem selectAnchor_first (h0 : anchorValid line0 d = true) (h : ¬anchorValid line1 d = true ∨
      (anchorEpoch line1).toNat < (anchorEpoch line0).toNat ∨
        ((anchorEpoch line0).toNat = (anchorEpoch line1).toNat ∧ (anchorEpoch line0).toNat % 2 = 0)) :
    selectAnchor d capacity line0 line1 = if anchorCapacity line0 = capacity then .ok line0 else .error .failed := by
  rw [selectAnchor, if_pos h0]
  by_cases h1 : anchorValid line1 d = true
  · rw [if_pos h1]
    rcases h with h | h | ⟨heq, heven⟩
    · exact absurd h1 h
    · rw [if_neg (by omega), if_pos h]
    · rw [if_pos heq, if_pos heven]
  · rw [if_neg h1]

/-- The restore point is the line in slot 1 (R132). -/
theorem selectAnchor_second (h1 : anchorValid line1 d = true) (h : ¬anchorValid line0 d = true ∨
      (anchorEpoch line0).toNat < (anchorEpoch line1).toNat ∨
        ((anchorEpoch line0).toNat = (anchorEpoch line1).toNat ∧ (anchorEpoch line0).toNat % 2 = 1)) :
    selectAnchor d capacity line0 line1 = if anchorCapacity line1 = capacity then .ok line1 else .error .failed := by
  rw [selectAnchor]
  by_cases h0 : anchorValid line0 d = true
  · rw [if_pos h0, if_pos h1]
    rcases h with h | h | ⟨heq, hodd⟩
    · exact absurd h0 h
    · rw [if_neg (by omega), if_neg (by omega)]
    · rw [if_pos heq, if_neg (by omega)]
  · rw [if_neg h0, if_pos h1]

end

/-- The fault of a failed anchor read (R132). -/
def anchorReadRecord (stamp : Ticks) (d : DomId) (addr : Addr) : FaultRecord :=
  { kind := .replayReadFailed, stamp := stamp, domain := some d, initiator := none, address := some addr,
    position := none, code := none }

section
variable {s : State} {w : Walk}

theorem State.anchorReadFault_slot0 (s : State) (d : DomId) : s.anchorReadFault d false =
    s.enqueueFault (anchorReadRecord s.time.tick d (s.dom d).config.anchorBase) := by
  rw [State.anchorReadFault, anchorRead_slot0]
  rfl

theorem State.anchorReadFault_slot1 (s : State) (d : DomId) : s.anchorReadFault d true = s.enqueueFault
    (anchorReadRecord s.time.tick d (BitVec.ofNat 40 ((s.dom d).config.anchorBase.toNat + 64))) := rfl

/-- Both anchor reads have failed (R132). -/
theorem State.anchorReadFault_both (s : State) (d : DomId) : (s.anchorReadFault d false).anchorReadFault d true =
    (s.enqueueFault (anchorReadRecord s.time.tick d (s.dom d).config.anchorBase)).enqueueFault
      (anchorReadRecord s.time.tick d (BitVec.ofNat 40 ((s.dom d).config.anchorBase.toNat + 64))) := by
  rw [State.anchorReadFault_slot0, State.anchorReadFault_slot1, State.enqueueFault_dom, (State.enqueueFault_same _ _).time]

/-- The answer to the read of slot 0 hands over the read of slot 1 (R131). -/
theorem State.anchorReadEnds_slot0 (h : w.phase = .anchorRead .slot0) (first : Option (List Byte)) :
    s.anchorReadEnds w first = (s.setWalk (some { w with phase := .anchorRead (.slot1 first) })).withOwn
      (anchorRead w.domain (s.dom w.domain).config true (s.deadlineIn s.time.memTimeout)) := by
  rw [State.anchorReadEnds, h]
  rfl

/-- The answer to the read of slot 1 ends both (R132). -/
theorem State.anchorReadEnds_slot1 {first : Option (List Byte)} (h : w.phase = .anchorRead (.slot1 first))
    (second : Option (List Byte)) : s.anchorReadEnds w second = s.anchorReadsEnd w first second := by
  rw [State.anchorReadEnds, h]

theorem State.anchorReadsEnd_error {line0 line1 : List Byte} {r : OpResult}
    (h : selectAnchor w.domain (s.dom w.domain).config.capacity line0 line1 = .error r) :
    s.anchorReadsEnd w (some line0) (some line1) = s.endWalk w r := by
  rw [State.anchorReadsEnd, h]

theorem State.anchorReadsEnd_ok {line0 line1 line : List Byte}
    (h : selectAnchor w.domain (s.dom w.domain).config.capacity line0 line1 = .ok line) :
    s.anchorReadsEnd w (some line0) (some line1) = State.advanceWalk (s.setWalk (some { w with
      phase := .walk, epoch := anchorEpoch line, cursor := lowerCursor (s.dom w.domain).config.capacity })) := by
  rw [State.anchorReadsEnd, h]

end

theorem anchorOutcome_okay {beats : List Beat} (h : ∀ b ∈ beats, b.code = .okay) :
    anchorOutcome beats = some (beats.flatMap fun b => laneBytes b.data) := if_pos ((allOkay_iff _).2 h)

theorem anchorOutcome_failed {beats : List Beat} (h : ¬∀ b ∈ beats, b.code = .okay) : anchorOutcome beats = none :=
  if_neg fun hc => h ((allOkay_iff _).1 hc)

/-- Settles O45: by the phase and the two outcomes, and then the selection. -/
theorem recoverReadsAndSelects : Obligations.RecoverReadsAndSelects := by
  unfold Obligations.RecoverReadsAndSelects
  refine ⟨?_, fun d capacity line0 line1 => ⟨selectAnchor_none, selectAnchor_first, selectAnchor_second⟩⟩
  intro s id beats a slot1 w hreset hp ho hw d c okay bytes freed run fault base0 base1
  have runs : run = .next (freed.anchorReadEnds w (anchorOutcome beats.toList)) :=
    exec_anchorReadResponse hreset hp ho hw beats
  refine ⟨fun hphase first hokay hnot => ?_, fun hphase hokay => ?_, fun hphase hnot => ?_, fun line0 hphase => ⟨fun hnot => ?_,
    fun hokay => ⟨fun r hr => ?_, fun line hl hcapacity => ?_⟩⟩⟩
  · have hfirst : anchorOutcome beats.toList = first := by
      by_cases h : okay
      · rw [hokay h]
        exact anchorOutcome_okay h
      · rw [hnot h]
        exact anchorOutcome_failed h
    rw [runs, hfirst, State.anchorReadEnds_slot0 hphase]
    rfl
  · rw [runs, anchorOutcome_okay hokay, State.anchorReadEnds_slot1 hphase]
    exact congrArg (fun t => Host.Outcome.next (State.endWalk t w .failed)) (freed.anchorReadFault_slot0 d)
  · rw [runs, anchorOutcome_failed hnot, State.anchorReadEnds_slot1 hphase]
    exact congrArg (fun t => Host.Outcome.next (State.endWalk t w .failed)) (freed.anchorReadFault_both d)
  · rw [runs, anchorOutcome_failed hnot, State.anchorReadEnds_slot1 hphase]
    exact congrArg (fun t => Host.Outcome.next (State.endWalk t w .failed)) (freed.anchorReadFault_slot1 d)
  · rw [runs, anchorOutcome_okay hokay, State.anchorReadEnds_slot1 hphase, State.anchorReadsEnd_error (s := freed) hr]
  · rw [runs, anchorOutcome_okay hokay, State.anchorReadEnds_slot1 hphase, State.anchorReadsEnd_ok (s := freed) hl]
    have htop : lowerCursor (freed.dom w.domain).config.capacity = some (c.capacity - 1) := if_neg hcapacity
    rw [htop]
    rfl

/-! ### Memory-side timeouts -/

theorem State.timeOutOwn_side (s : State) (dir : Dir) (p : OwnAccess → Bool) : (s.timeOutOwn dir p).side dir = { s.side dir with
    own := (s.side dir).own.filter fun a => !p a
    issuedOwn := (s.side dir).issuedOwn.map fun i =>
      if i.timedOut = false ∧ p i.access = true then { i with timedOut := true } else i } := by
  rw [State.timeOutOwn, State.setSide_side_self]
  simp only [Bool.and_eq_true, Bool.not_eq_true']

section
variable {s : State}

/-- The timeout of a capture's access that is due (R55, R59, R158). -/
theorem State.timeOutCapture_due {k : SlotId} {st : SlotState} (hst : (s.slot k).state = st)
    (hdue : (s.slot k).deadline = some s.time.tick) (dir : Dir) (owner : Owner) (kind : FaultKind) :
    s.timeOutCapture k st dir owner kind =
      (s.timeOutOwn dir fun a => decide (a.owner = owner)).captureFails k kind :=
  if_pos (by rw [hst, decide_eq_true rfl, (s.due_iff _).2 hdue]; rfl)

/-- The timeout of an anchor or invalidating write (R30, R31, R114, R129, R134, R158). -/
theorem State.timeOutAnchor_due {d : DomId} {a : OwnAccess} {use : AnchorUse}
    (hfind : s.findOwn .write (fun x => isAnchorWriteOf d x && s.due x.deadline) = some a)
    (ho : a.owner = .anchorWrite use) : s.timeOutAnchor d =
      (s.timeOutOwn .write fun x => isAnchorWriteOf d x && s.due x.deadline).anchorFails d use a.addr := by
  rw [State.timeOutAnchor, hfind]
  dsimp only
  rw [ho]

/-- The timeout of a walk's read (R124, R132, R158). -/
theorem State.timeOutWalkRead_due {a : OwnAccess} {w : Walk}
    (hfind : s.findOwn .read (fun x => isWalkRead x && s.due x.deadline) = some a) (hw : s.replay.walk = some w) :
    s.timeOutWalkRead = if a.owner = .recordRead then
        ((s.timeOutOwn .read fun x => isWalkRead x && s.due x.deadline).recordReadFails (readEnded w)
          (a.position.getD 0)).advanceWalk
      else (s.timeOutOwn .read fun x => isWalkRead x && s.due x.deadline).anchorReadEnds w none := by
  rw [State.timeOutWalkRead, hfind, hw]

/-- The timeout of a replay write that has been handed over (R124, R158). -/
theorem State.timeOutReplayWrite_due {a : OwnAccess} {w : Walk}
    (hfind : s.findOwn .write (fun x => decide (x.owner = .replayWrite) && s.due x.deadline) = some a)
    (hw : s.replay.walk = some w) : s.timeOutReplayWrite =
      ((s.timeOutOwn .write fun x => decide (x.owner = .replayWrite) && s.due x.deadline).replayWriteFails (writeEnded w)
        (a.position.getD 0) a.addr).advanceWalk := by
  rw [State.timeOutReplayWrite, hfind, hw]

/-- The timeout of a replay write still in the record buffer (R123, R124, R158). -/
theorem State.timeOutBuffer_due {w : Walk} {b : Buffered} (hw : s.replay.walk = some w) (hb : w.buffer = some b)
    (hdue : b.deadline = some s.time.tick) : s.timeOutBuffer =
      (s.replayWriteFails { w with buffer := none } b.position (lineAddr (recordLine b.record))).advanceWalk := by
  rw [State.timeOutBuffer, hw]
  dsimp only
  rw [hb]
  exact if_pos ((s.due_iff _).2 hdue)

end

/-- Settles O35: each owner by its own command. -/
theorem memTimeouts : Obligations.MemTimeouts := by
  unfold Obligations.MemTimeouts
  intro s hreset now
  have runs (f : State → State) : whileRunning f s = .next (f s) := whileRunning_next f s hreset
  refine ⟨fun k hst hdue => ?_, fun k hst hdue => ?_, fun d a use hfind ho => ?_, fun a w hfind hw => ?_,
    fun a w position hfind hw ha => ?_, fun w b hw hb hdue => ?_, State.timeOutOwn_side s⟩
  · exact (runs _).trans (congrArg _ (State.timeOutCapture_due hst hdue .read (.captureRead k) .captureFailed))
  · exact (runs _).trans (congrArg _ (State.timeOutCapture_due hst hdue .write (.recordWrite k) .recordFailed))
  · exact (runs (State.timeOutAnchor · d)).trans (congrArg _ (State.timeOutAnchor_due hfind ho))
  · intro t
    refine ⟨fun ho position ha => ?_, fun ho => ?_⟩
    · have timesOut := State.timeOutWalkRead_due hfind hw
      rw [if_pos ho, ha] at timesOut
      exact (runs _).trans (congrArg _ timesOut)
    · exact (runs _).trans (congrArg _ ((State.timeOutWalkRead_due hfind hw).trans (if_neg ho)))
  · have timesOut := State.timeOutReplayWrite_due hfind hw
    rw [ha] at timesOut
    exact (runs _).trans (congrArg _ timesOut)
  · exact (runs _).trans (congrArg _ (State.timeOutBuffer_due hw hb hdue))

end Sys2Proof.Machine
end
